-- ==== Sys2Proof/Word.lean ====
section
/-! DEFINITION. The word types of the block (00_scope.md R13) and the five-word command descriptor as plain data
(30_encoding.md R60). The views of a lane and its arithmetic stand in Machine/Operands.lean. -/

namespace Sys2Proof

/-- `u8` of R13: one byte of a lane, of a stored block or of a descriptor held in storage. -/
abbrev Byte := BitVec 8

/-- `u32` of R13: one of the eight words that the permutation index sequences refer to. -/
abbrev Word32 := BitVec 32

/-- `u64` of R13: a word of a lane, a seed word, a word of a descriptor or of a response. -/
abbrev Word := BitVec 64

/-- `u128` of R13: one of the two halves of a lane. -/
abbrev LaneHalf := BitVec 128

/-- A lane, held as its integer view `L.v` (R13, R20, R41): `LANE_BITS` = 256 bits. -/
abbrev Lane := BitVec 256

/-- A command descriptor: five 64-bit words `W0 .. W4`, consumed whole when the command is accepted (R60). -/
structure Descriptor where
  w0 : Word
  w1 : Word
  w2 : Word
  w3 : Word
  w4 : Word
  deriving DecidableEq, Repr

end Sys2Proof
end

