-- ==== Sys2Proof/Config.lean ====
section
/-! DEFINITION. What is fixed when an instance is built: the variant (R8), the open parameters `PHI` and `SEEDMAP`
with the spec's defaults (R10, R141, R142), `SIZE_BITS` (D20), the build the model resets to; and the free values the
spec leaves open at reset (R35, R190, R191), opaque constants nothing can evaluate. -/

namespace Sys2Proof

/-- The build parameter `VARIANT` (R8): which engine an instance of the block is. -/
inductive Variant where
  | full
  | half
  deriving DecidableEq, Repr

/-- Which of the two alternating word positions of a state lane take a seed word (R142): words 0 and 2, or 1 and 3. -/
inductive Parity where
  | even
  | odd
  deriving DecidableEq, Repr

/-- One state lane's part of `SEEDMAP` (R142). Every value is an admissible placement and every admissible placement
is a value: each of the four words has exactly one table constant, and exactly two words at alternating positions
have one seed word each. DEDUCED (log entry 11). -/
structure Placement (nphi : Nat) where
  /-- `SEEDMAP.phi(i, k)` for k = 0, 1, 2, 3: the table index of each word. -/
  phi0 : Fin nphi
  phi1 : Fin nphi
  phi2 : Fin nphi
  phi3 : Fin nphi
  /-- Which two positions are seeded. -/
  seeded : Parity
  /-- The seed word of the lower-numbered seeded position. -/
  seedLow : Fin 4
  /-- The seed word of the higher-numbered seeded position. -/
  seedHigh : Fin 4
  deriving DecidableEq, Repr

/-- The open parameters of one instance (R10): `PHI`, `nphi` constants, and `SEEDMAP`, one placement per state lane. -/
structure Params (nphi ns : Nat) where
  phi : Vector Word nphi
  seedMap : Vector (Placement nphi) ns
  deriving DecidableEq, Repr

/-- FULL: `NPHI` = 16 constants, `NS` = 4 state lanes (R9). -/
abbrev FullParams := Params 16 4

/-- HALF: `NPHI` = 8 constants, `NS` = 2 state lanes (R9). -/
abbrev HalfParams := Params 8 2

/-- A build of the block: its variant with the parameters of that variant (R8, R10). -/
inductive Build where
  | full (p : FullParams)
  | half (p : HalfParams)
  deriving DecidableEq, Repr

def Build.variant : Build → Variant
  | .full _ => .full
  | .half _ => .half

/-- `SIZE_BITS` (R10, R63, D20): the width of `size` and `blen` (log entry 12). -/
def Config.sizeBits : Nat := 64

/-- The default `PHI` of a FULL instance (R141). PRESUMED (log entry 10): the spec has it from general knowledge (G1). -/
def Config.phiFull : Vector Word 16 := #v[
  0x9E3779B97F4A7C15, 0xF39CC0605CEDC834, 0x1082276BF3A27251, 0xF86C6A11D0C18E95,
  0x2767F0B153D27B7F, 0x0347045B5BF1827F, 0x01886F0928403002, 0xC1D64BA40F335E36,
  0xF06AD7AE9717877E, 0x85839D6EFFBD7DC6, 0x64D325D1C5371682, 0xCADD0CCCFDFFBBE1,
  0x626E33B8D04B4331, 0xBBF73C790D94F79D, 0x471C4AB3ED3D82A5, 0xFEC507705E4AE6E5]

/-- The default `PHI` of a HALF instance: the first eight constants (R141). PRESUMED (log entry 10). -/
def Config.phiHalf : Vector Word 8 := #v[
  0x9E3779B97F4A7C15, 0xF39CC0605CEDC834, 0x1082276BF3A27251, 0xF86C6A11D0C18E95,
  0x2767F0B153D27B7F, 0x0347045B5BF1827F, 0x01886F0928403002, 0xC1D64BA40F335E36]

/-- The default `SEEDMAP` of a FULL instance (R142): table index 4i + k, words 0 and 2 seeded, seed order
0,1 / 2,3 / 2,3 / 0,1. PRESUMED (log entry 10): the spec has it from general knowledge (G2). -/
def Config.seedMapFull : Vector (Placement 16) 4 := #v[
  ⟨0, 1, 2, 3, .even, 0, 1⟩, ⟨4, 5, 6, 7, .even, 2, 3⟩,
  ⟨8, 9, 10, 11, .even, 2, 3⟩, ⟨12, 13, 14, 15, .even, 0, 1⟩]

/-- The default `SEEDMAP` of a HALF instance (R142): seed order 0,1 / 2,3. PRESUMED (log entry 10). -/
def Config.seedMapHalf : Vector (Placement 8) 2 := #v[
  ⟨0, 1, 2, 3, .even, 0, 1⟩, ⟨4, 5, 6, 7, .even, 2, 3⟩]

def Config.fullParams : FullParams := ⟨Config.phiFull, Config.seedMapFull⟩

def Config.halfParams : HalfParams := ⟨Config.phiHalf, Config.seedMapHalf⟩

/-- The build whose reset state is `Machine.State.reset`: FULL with the default parameters.
DESIGN CHOICE (log entry 2): the host's interface has one reset state, the spec has one per build. -/
def Config.resetBuild : Build := .full Config.fullParams

/-- Free 256-bit values: what a reset leaves in the lane registers (R35 'any value', R190, U1). No body is given, so
nothing in Lean knows a value of it. DESIGN CHOICE (log entry 3). -/
opaque Config.freeLane : Nat → Lane

/-- Free bytes: what a reset during a `GEN` leaves at the offsets that command was to store (R191, U8).
DESIGN CHOICE (log entry 4). -/
opaque Config.freeByte : Nat → Byte

end Sys2Proof
end

