-- ==== Sys2Proof/Syntax.lean ====
section
/-! DEFINITION. The commands of the block (30_encoding.md R73), one constructor per row of spec/opcode_table.json:
`INIT` and `GEN`, each for the FULL and for the HALF variant (R64). The variant is a build parameter and is not in the
descriptor: the decoder takes it from the instance (R64), so an instance only ever runs its own two constructors.
DESIGN CHOICE (log entry 1). -/

namespace Sys2Proof

inductive Instr where
  /-- `INIT seed0, seed1, seed2, seed3` on a FULL instance (R144). -/
  | initFull (seed0 seed1 seed2 seed3 : Word)
  /-- `INIT seed0, seed1, seed2, seed3` on a HALF instance (R147). -/
  | initHalf (seed0 seed1 seed2 seed3 : Word)
  /-- `GEN size, blen` on a FULL instance (R104); `blen` = 0 is "no buffer" (R63). -/
  | genFull (size blen : Nat)
  /-- `GEN size, blen` on a HALF instance (R124). -/
  | genHalf (size blen : Nat)
  deriving DecidableEq, Repr

/-- The variant whose row of the opcode table a command is (R64). -/
def Instr.variant : Instr → Variant
  | .initFull _ _ _ _ => .full
  | .initHalf _ _ _ _ => .half
  | .genFull _ _ => .full
  | .genHalf _ _ => .half

/-- `INIT` as an instance of the given variant runs it (R64). -/
def Instr.initOf : Variant → Word → Word → Word → Word → Instr
  | .full => .initFull
  | .half => .initHalf

/-- `GEN` as an instance of the given variant runs it (R64). -/
def Instr.genOf : Variant → Nat → Nat → Instr
  | .full => .genFull
  | .half => .genHalf

/-- The pseudo-command `SKIP size` = `GEN size, 0` (R72). -/
def Instr.skip (v : Variant) (size : Nat) : Instr := Instr.genOf v size 0

/-- The pseudo-command `NOP` = `GEN 0, 0` (R72). -/
def Instr.nop (v : Variant) : Instr := Instr.genOf v 0 0

end Sys2Proof
end

