-- ==== Sys2Proof/WellFormed.lean ====
section
/-! DEFINITION. Which commands have an encoding: `size` and `blen` are natural numbers below 2^SIZE_BITS (R13, R63);
every seed word is legal (R62). -/

namespace Sys2Proof

/-- A value of `size` or `blen` that its descriptor word can hold (R63). -/
def fitsSizeWord (n : Nat) : Bool := decide (n < 2 ^ Config.sizeBits)

def Instr.wellFormed : Instr → Bool
  | .initFull _ _ _ _ => true
  | .initHalf _ _ _ _ => true
  | .genFull size blen => fitsSizeWord size && fitsSizeWord blen
  | .genHalf size blen => fitsSizeWord size && fitsSizeWord blen

end Sys2Proof
end

