-- ==== Sys2Proof/Decode.lean ====
section
/-! DEFINITION. The byte order helpers (20_memory.md R41), the decoder of descriptors and of descriptors held as bytes
(30_encoding.md R60 to R65, R68, R75), total and rejecting by name, and after it the encoder. -/

namespace Sys2Proof

/-- Element `k` of the little-endian view of `x` in units of `w` bits: bits `[w·k + w − 1 : w·k]` (R15, R41). -/
def slice (w : Nat) {m : Nat} (x : BitVec m) (k : Nat) : BitVec w := x.extractLsb' (w * k) w

/-- The `m`-bit value whose little-endian view in units of `w` bits is `f 0, f 1, .., f (n − 1)` (R41). -/
def assemble (w m : Nat) : (n : Nat) → (Nat → BitVec w) → BitVec m
  | 0, _ => 0
  | n + 1, f => ((f n).setWidth m <<< (w * n)) ||| assemble w m n f

/-- The bytes of a value, byte 0 first (R41, R42, R60). -/
def bytesOf {m : Nat} (n : Nat) (x : BitVec m) : List Byte := (List.range n).map (slice 8 x)

/-- Why a descriptor is invalid (R68). -/
inductive Reject where
  /-- Fewer than the 40 bytes of a descriptor (R60). -/
  | truncated
  /-- `OPC` is neither 0x01 nor 0x02 (R64, R68). -/
  | reservedOpcode
  /-- `RZ0`, bits `[63:8]` of `W0`, is not zero (R61, R68). -/
  | reservedHeaderBits
  /-- `W3` of a `GEN` is not zero (R63, R68). -/
  | reservedW3
  /-- `W4` of a `GEN` is not zero (R63, R68). -/
  | reservedW4
  deriving DecidableEq, Repr

/-- `OPC` = `W0[7:0]` (R61). -/
def Descriptor.opc (d : Descriptor) : Byte := d.w0.extractLsb' 0 8

/-- `RZ0` = `W0[63:8]` (R61). -/
def Descriptor.rz0 (d : Descriptor) : BitVec 56 := d.w0.extractLsb' 8 56

/-- A valid header (R61) with `OPC` = 0x02: format `G` (R63). -/
def decodeGen (v : Variant) (d : Descriptor) : Except Reject Instr :=
  if d.w3 ≠ 0 then .error .reservedW3
  else if d.w4 ≠ 0 then .error .reservedW4
  else .ok (Instr.genOf v d.w1.toNat d.w2.toNat)

/-- The decoder of an instance of variant `v` (R75): total on descriptors. -/
def decodeWords (v : Variant) (d : Descriptor) : Except Reject Instr :=
  if d.opc = 0x01 then
    if d.rz0 = 0 then .ok (Instr.initOf v d.w1 d.w2 d.w3 d.w4) else .error .reservedHeaderBits
  else if d.opc = 0x02 then
    if d.rz0 = 0 then decodeGen v d else .error .reservedHeaderBits
  else .error .reservedOpcode

/-- `Wn` of a descriptor held in byte-addressed storage: bytes `8n .. 8n+7`, least significant byte first (R60). -/
def storedWord (bytes : List Byte) (n : Nat) : Word := assemble 8 64 8 fun m => bytes.getD (8 * n + m) 0

/-- The descriptor held in the first 40 bytes (R60). -/
def Descriptor.ofBytes (bytes : List Byte) : Descriptor :=
  ⟨storedWord bytes 0, storedWord bytes 1, storedWord bytes 2, storedWord bytes 3, storedWord bytes 4⟩

/-- The decoder on bytes: the command and the bytes after its descriptor (R60, R75). -/
def decode (v : Variant) (bytes : List Byte) : Except Reject (Instr × List Byte) :=
  if bytes.length < 40 then .error .truncated
  else (decodeWords v (Descriptor.ofBytes bytes)).map fun i => (i, bytes.drop 40)

/-- The 40 stored bytes of the table word `w` of `nbits` bits, the descriptor taken as one integer
`D` = `W0 + W1·2^64 + .. + W4·2^256` (R64): byte `j` is bits `[8j+7 : 8j]`, and every bit from `nbits` on is zero. -/
def tableBytes (nbits w : Nat) : List Byte :=
  (List.range 40).map fun j => if 8 * j < nbits then BitVec.ofNat 8 (w >>> (8 * j)) else 0

/-- What the decoder reads from the table word `w` of `nbits` bits (R64). The variant is that of the reset build, since
no descriptor carries one (R8, R64). -/
def decodeTableWord (nbits w : Nat) : Option Instr :=
  match decode Config.resetBuild.variant (tableBytes nbits w) with
  | .ok (i, _) => some i
  | .error _ => none

/-- `encode` of R75: the descriptor of a command. -/
def encode : Instr → Descriptor
  | .initFull a b c d => ⟨0x0000000000000001, a, b, c, d⟩
  | .initHalf a b c d => ⟨0x0000000000000001, a, b, c, d⟩
  | .genFull size blen => ⟨0x0000000000000002, BitVec.ofNat 64 size, BitVec.ofNat 64 blen, 0, 0⟩
  | .genHalf size blen => ⟨0x0000000000000002, BitVec.ofNat 64 size, BitVec.ofNat 64 blen, 0, 0⟩

/-- A descriptor as the 40 bytes that hold it in byte-addressed storage (R60). -/
def Descriptor.bytes (d : Descriptor) : List Byte :=
  bytesOf 8 d.w0 ++ bytesOf 8 d.w1 ++ bytesOf 8 d.w2 ++ bytesOf 8 d.w3 ++ bytesOf 8 d.w4

/-- The 40 bytes of a command (R60, R75). -/
def encodeBytes (i : Instr) : List Byte := (encode i).bytes

end Sys2Proof
end

