-- ==== Sys2Proof/Machine/State.lean ====
section
/-! DEFINITION. The state of one instance (10_state.md): the lane file with the build parameters it was made with, the
busy bit, the buffer of the latest command, the response being delivered, what the host has issued and the block has
not accepted yet, and the model's own counter of free values; the reasons a step can stop; the state after reset. -/

namespace Sys2Proof.Machine

open Sys2Proof

/-- The lane file of a FULL instance (R21): nine disjoint 256-bit registers. -/
structure FullLanes where
  s0 : Lane
  s1 : Lane
  s2 : Lane
  s3 : Lane
  o0 : Lane
  o1 : Lane
  o2 : Lane
  o3 : Lane
  c : Lane
  deriving DecidableEq, Repr

/-- The lane file of a HALF instance (R22): four disjoint 256-bit registers. -/
structure HalfLanes where
  s0 : Lane
  s1 : Lane
  o : Lane
  c : Lane
  deriving DecidableEq, Repr

/-- An instance is exactly one engine (R8): its parameters, which nothing writes (R10), and its lane file (R20). -/
inductive Engine where
  | full (params : FullParams) (lanes : FullLanes)
  | half (params : HalfParams) (lanes : HalfLanes)
  deriving DecidableEq, Repr

/-- The build an engine was made with (R8, R10). -/
def Engine.build : Engine → Build
  | .full p _ => .full p
  | .half p _ => .half p

def Engine.variant (e : Engine) : Variant := e.build.variant

/-- The status of a response (R67). `E_CAPABILITY` (0x03) and 0x04 to 0xFF are never produced, so the type has
exactly three values (R166, U3). -/
inductive Status where
  | ok
  | eSize
  | eBuffer
  deriving DecidableEq, Repr

/-- The response record (R66): the status and the number of bytes stored. Its two words are `Response.rsp0` and
`Response.rsp1` of Machine/Flags.lean. -/
structure Response where
  status : Status
  written : Nat
  deriving DecidableEq, Repr

/-- The one address space, the output buffer (R40, R48): (offset, byte) pairs, offsets strictly rising. An offset that
is not listed holds a byte the model knows nothing of and reads as no value. DESIGN CHOICE (log entry 5). -/
abbrev Memory := List Host.Cell

/-- One thing the host does to the instance. The buffer that goes with a command is another buffer with the contents
given (`some`), or the buffer of the command before, as that command left it (`none`): "two unrelated buffers unless
the host makes them the same" (R40). DESIGN CHOICE (log entry 8). -/
inductive HostMove where
  /-- Issue the command with this descriptor (R60) and this buffer (R63). -/
  | command (descriptor : Descriptor) (buffer : Option Memory)
  /-- Reset the idle instance (R190). -/
  | reset
  /-- Issue a command and reset the instance while that command executes (R191). -/
  | commandThenReset (descriptor : Descriptor) (buffer : Option Memory)
  deriving DecidableEq, Repr

/-- All that an instance and its command port hold between commands. There is no program counter, no flag, no control or
status register, no interrupt or privilege state (R30, R31, R32, R168, R172). -/
structure State where
  /-- Build parameters and lane file (R8, R10, R20 to R22). -/
  engine : Engine
  /-- True from the acceptance of a command to the delivery of its response (R33; log entry 9). -/
  busy : Bool
  /-- The buffer of the latest command (R40): what the host may read after the response (R51). -/
  buffer : Memory
  /-- The response the latest step delivered to the host (R66). No step reads it and every step replaces it (R32).
  DESIGN CHOICE (log entry 7). -/
  response : Option Response
  /-- What the host has issued and the block has not accepted yet, in the order of issue (R30, R50, R200).
  DESIGN CHOICE (log entries 6 and 8). -/
  offers : List HostMove
  /-- The model's own: the number of the next free value (R35, R190, R191). DESIGN CHOICE (log entries 3 and 4). -/
  draws : Nat
  deriving DecidableEq, Repr

/-- What stops the machine with a fault: nothing (R171, R179 'Fault: none'). Every valid command answers a next state;
the validation errors of R160 are statuses of a response, not faults (log entry 19). -/
inductive Fault where
  deriving DecidableEq, Repr

/-- Why a step gives no meaning. -/
inductive Refusal where
  /-- Raised by `exec` for an instruction without a meaning: no arm raises it. Safe: the model stops. -/
  | notModelled (mnemonic : String)
  /-- Raised by `fetch` for a descriptor that decodes to no command (R68, R69, R179, U2): the spec gives it no
  meaning and tells a model to refuse it. Safe: the model stops. -/
  | invalidDescriptor (reason : Reject)
  /-- Raised by every command and by `fetch` when a command is issued while the instance is busy (R50, R179): the
  block does not accept it. Safe: the model stops. No reachable state is busy between commands. -/
  | issuedWhileBusy
  /-- Raised by a command of the variant that the instance is not (R8): an instance executes the rules of exactly one
  engine. Safe: the model stops. The decoder of an instance never gives such a command (R64). -/
  | wrongVariant
  deriving DecidableEq, Repr

/-- The lane file with every register unspecified: free values `n`, `n + 1`, .. (R35, R190; log entry 3). -/
def Engine.unspecified (b : Build) (n : Nat) : Engine :=
  match b with
  | .full p => .full p
      { s0 := Config.freeLane n, s1 := Config.freeLane (n + 1), s2 := Config.freeLane (n + 2)
        s3 := Config.freeLane (n + 3), o0 := Config.freeLane (n + 4), o1 := Config.freeLane (n + 5)
        o2 := Config.freeLane (n + 6), o3 := Config.freeLane (n + 7), c := Config.freeLane (n + 8) }
  | .half p => .half p
      { s0 := Config.freeLane n, s1 := Config.freeLane (n + 1), o := Config.freeLane (n + 2)
        c := Config.freeLane (n + 3) }

/-- How many lane registers an instance has (R21, R22). -/
def Build.laneCount : Build → Nat
  | .full _ => 9
  | .half _ => 4

/-- The state of an instance of the given build right after its first reset (R35, R190): idle, every lane unspecified,
nothing issued, no response pending. Its lanes are the free values from number `n` on: two instances take different `n`,
or they would have the same lanes (log entry 3). -/
def State.resetOf (b : Build) (n : Nat) : State where
  engine := Engine.unspecified b n
  busy := false
  buffer := []
  response := none
  offers := []
  draws := n + Build.laneCount b

/-- The machine right after reset, for the build of `Config.resetBuild` (log entry 2). -/
def State.reset : State := State.resetOf Config.resetBuild 0

end Sys2Proof.Machine
end

