-- ==== Sys2Proof/Machine/Flags.lean ====
section
/-! DEFINITION. The block has no flags and no condition codes (10_state.md R31). What it computes in their place is the
status of a command: the two validation checks of `GEN` in their order (60_exceptions.md R161, R162, R164) and the two
words of the response record (30_encoding.md R66, R67). -/

namespace Sys2Proof.Machine

open Sys2Proof

/-- `E_SIZE`: `size` is not a multiple of the block size (R161). -/
def sizeIsBad (block size : Nat) : Bool := size % block != 0

/-- `E_BUFFER`: there is a buffer and it is shorter than `size` (R162). -/
def bufferIsBad (size blen : Nat) : Bool := blen != 0 && decide (blen < size)

/-- Lines 1 and 2 of R104 and R124: the size check first, the buffer check second (R164). -/
def validate (block size blen : Nat) : Status :=
  if sizeIsBad block size then .eSize else if bufferIsBad size blen then .eBuffer else .ok

/-- The status codes (R67). -/
def Status.code : Status → Byte
  | .ok => 0x00
  | .eSize => 0x01
  | .eBuffer => 0x02

/-- `RSP0`: the status in bits 7 to 0, zero above (R66). -/
def Response.rsp0 (r : Response) : Word := (Status.code r.status).setWidth 64

/-- `RSP1` = `WRITTEN` (R66). -/
def Response.rsp1 (r : Response) : Word := BitVec.ofNat 64 r.written

end Sys2Proof.Machine
end

