-- ==== Sys2Proof/Machine/Memory.lean ====
section
/-! DEFINITION. The output buffer as a list of (offset, byte) pairs in one canonical form, its read and its only access by
the block, the store `MemWrite` (20_memory.md R40, R44, R45, R48). -/

namespace Sys2Proof.Machine

open Sys2Proof

/-- The canonical form: offsets strictly rising. An unlisted offset reads as no value, so no entry can equal it. -/
abbrev Memory.wf (m : Memory) : Prop := m.Pairwise fun x y => x.1 < y.1

/-- The byte at an offset; no value where neither the host nor the block has put one (log entry 5). The block itself never
reads (R45): this is what the host sees after the response (R51). -/
def Memory.read : Memory → Nat → Option Byte
  | [], _ => none
  | (x, b) :: rest, a => if a = x then some b else Memory.read rest a

/-- The buffer with the byte at one offset replaced. -/
def Memory.write : Memory → Nat → Byte → Memory
  | [], a, b => [(a, b)]
  | (x, y) :: rest, a, b =>
    if a < x then (a, b) :: (x, y) :: rest
    else if a = x then (a, b) :: rest
    else (x, y) :: Memory.write rest a b

/-- `MemWrite(off, n, v)` with `v` the list and `n` its length: byte `j` goes to offset `off + j` (R44). -/
def Memory.writeBytes (m : Memory) (off : Nat) : List Byte → Memory
  | [] => m
  | b :: rest => Memory.writeBytes (m.write off b) (off + 1) rest

end Sys2Proof.Machine
end

