-- ==== Sys2Proof/Machine/Operands.lean ====
section
/-! DEFINITION. The views of a lane (00_scope.md R13, 20_memory.md R41) and the lane primitives of
40_lane_primitives.md: `LADD`, `LSHR`, `LXOR`, `ALIGNR`, `PERM32`, `ROT12`, `ROT20`. All are total and pure (R93). -/

namespace Sys2Proof.Machine

open Sys2Proof

/-- `L.w[k]`, the 64-bit words. -/
def Lane.word (L : Lane) (k : Nat) : Word := slice 64 L k

/-- `L.d[i]`, the 32-bit words. -/
def Lane.word32 (L : Lane) (i : Nat) : Word32 := slice 32 L i

/-- `L.b[j]`, the bytes. -/
def Lane.byte (L : Lane) (j : Nat) : Byte := slice 8 L j

/-- `L.lo`, bytes 0 to 15. -/
def Lane.lo (L : Lane) : LaneHalf := slice 128 L 0

/-- `L.hi`, bytes 16 to 31. -/
def Lane.hi (L : Lane) : LaneHalf := slice 128 L 1

/-- The lane whose 64-bit words are `f 0 .. f 3`. -/
def Lane.ofWords (f : Nat → Word) : Lane := assemble 64 256 4 f

/-- The lane whose 32-bit words are `f 0 .. f 7`. -/
def Lane.ofWords32 (f : Nat → Word32) : Lane := assemble 32 256 8 f

/-- The lane whose bytes are `f 0 .. f 31`. -/
def Lane.ofBytes (f : Nat → Byte) : Lane := assemble 8 256 32 f

/-- The lane with the given low and high halves. -/
def Lane.ofHalves (lo hi : LaneHalf) : Lane := hi ++ lo

/-- The lane literal `w0, w1, w2, w3` of R13, word 0 first. -/
def Lane.lit (w0 w1 w2 w3 : Word) : Lane := w3 ++ w2 ++ w1 ++ w0

/-- The 32 bytes of a lane in ascending order, as they are stored (R42). -/
def Lane.bytes (L : Lane) : List Byte := bytesOf 32 L

/-- `LADD(a, b)`: four independent additions modulo 2^64 (R80). -/
def ladd (a b : Lane) : Lane := Lane.ofWords fun k => Lane.word a k + Lane.word b k

/-- `LSHR(a, n)`: four independent logical right shifts (R81). -/
def lshr (a : Lane) (n : Nat) : Lane := Lane.ofWords fun k => Lane.word a k >>> n

/-- `LXOR(a, b)` (R82). -/
def lxor (a b : Lane) : Lane := a ^^^ b

/-- Byte `j` of the 32-byte concatenation of `lower` and `upper` (R84). -/
def alignSource (lower upper : LaneHalf) (j : Nat) : Byte :=
  if j < 16 then slice 8 lower j else slice 8 upper (j - 16)

/-- `ALIGNR(lower, upper, amount)`: the 16-byte window starting `amount` bytes into the concatenation (R84). `amount` is
typed as a number below 16, the only ones that have a meaning (U4). -/
def alignr (lower upper : LaneHalf) (amount : Fin 16) : LaneHalf :=
  assemble 8 128 16 fun j => alignSource lower upper (j + amount.val)

/-- `PERM32(L, idx)`: word `i` of the result is word `idx[i]` of the operand (R85). -/
def perm32 (L : Lane) (idx : Vector (Fin 8) 8) : Lane :=
  Lane.ofWords32 fun i => Lane.word32 L (idx.toList.getD i 0).val

/-- The lane rotated right by `n` bytes: the canonical byte map of R86 and R87 (D28). -/
def rotateBytes (n : Nat) (L : Lane) : Lane := Lane.ofBytes fun j => Lane.byte L ((j + n) % 32)

/-- `ROT12(L)` (R86). -/
def rot12 (L : Lane) : Lane := rotateBytes 12 L

/-- `ROT20(L)` (R87). -/
def rot20 (L : Lane) : Lane := rotateBytes 20 L

/-- `INC` = 7, 5, 3, 1, word 0 first (R9, R26). -/
def counterIncrement : Lane := Lane.lit 7 5 3 1

/-- The word operand a placement selects for word `k` of its lane: the table constant, XOR-ed with a seed word at a seeded
position (R142, R143). -/
def Placement.word {nphi : Nat} (m : Placement nphi) (phi : Vector Word nphi) (seed : Fin 4 → Word) : Nat → Word
  | 0 => if m.seeded = .even then phi[m.phi0] ^^^ seed m.seedLow else phi[m.phi0]
  | 1 => if m.seeded = .even then phi[m.phi1] else phi[m.phi1] ^^^ seed m.seedLow
  | 2 => if m.seeded = .even then phi[m.phi2] ^^^ seed m.seedHigh else phi[m.phi2]
  | _ => if m.seeded = .even then phi[m.phi3] else phi[m.phi3] ^^^ seed m.seedHigh

/-- `seed[j]` of R143. -/
def seedWord (seed0 seed1 seed2 seed3 : Word) (j : Fin 4) : Word :=
  match j with
  | 0 => seed0
  | 1 => seed1
  | 2 => seed2
  | 3 => seed3

/-- State lane `i` as `SEEDLOAD` builds it (R143). -/
def Params.seedLane {nphi ns : Nat} (p : Params nphi ns) (seed : Fin 4 → Word) (i : Fin ns) : Lane :=
  Lane.ofWords (Placement.word p.seedMap[i] p.phi seed)

end Sys2Proof.Machine
end

