-- ==== Sys2Proof/Machine/Ops.lean ====
section
/-! DEFINITION. The named operations on the state: accepting a command, delivering its response, idling, taking a host
move; the steps of a `GEN` over either engine (R104, R124); reset and reset during a command (R190, R191). There is no
trap entry and no trap return (R169, R170): an error is the status of the response. -/

namespace Sys2Proof.Machine

open Sys2Proof

/-- Acceptance of a command (R33, R50): the instance is busy, and the response of the command before, which is kept
nowhere, is gone (R32, R66). -/
def State.accept (s : State) : State := { s with busy := true, response := none }

/-- Delivery of the response (R50, R66): the instance is idle again. -/
def State.respond (s : State) (status : Status) (written : Nat) : State :=
  { s with busy := false, response := some ⟨status, written⟩ }

/-- The lane file and the buffer as a command leaves them. -/
def State.store (s : State) (e : Engine) (buffer : Memory) : State := { s with engine := e, buffer := buffer }

/-- Nothing is issued: the instance holds what it holds (R203). The response delivered before is kept nowhere (R66). -/
def State.idle (s : State) : State := { s with response := none }

/-- The host's next move is taken; a command brings its buffer (R40). -/
def State.take (s : State) (rest : List HostMove) (buffer : Option Memory) : State :=
  { s with offers := rest, buffer := buffer.getD s.buffer }

/-- Reset (R190): idle, every lane unspecified, no response pending; the buffer is the host's and stays. In a state that is
busy between steps, which no run reaches, the command in flight is abandoned and nothing is known of its buffer (R191).
DESIGN CHOICE (log entry 13). -/
def State.doReset (s : State) : State :=
  { s with
    engine := Engine.unspecified s.engine.build s.draws
    draws := s.draws + Build.laneCount s.engine.build
    busy := false
    response := none
    buffer := if s.busy then [] else s.buffer }

/-- How many bytes of its buffer, from offset 0, a command abandoned by a reset leaves unspecified: offsets 0 to
`size − 1`, as far as there is a buffer (R191). `INIT` has no buffer (R40). DEDUCED (log entry 4). -/
def abandonedBytes : Instr → Nat
  | .initFull _ _ _ _ => 0
  | .initHalf _ _ _ _ => 0
  | .genFull size blen => min size blen
  | .genHalf size blen => min size blen

/-- `n` free bytes from draw `first` on (R191; log entry 4). -/
def freeBytes (first n : Nat) : List Byte := (List.range n).map fun j => Config.freeByte (first + j)

/-- Reset while the command `i` executes (R191, U8): no response, each byte it could have stored unspecified, then as any
reset. -/
def State.abandon (s : State) (i : Instr) : State :=
  State.doReset { s with
    buffer := s.buffer.writeBytes 0 (freeBytes s.draws (abandonedBytes i))
    draws := s.draws + abandonedBytes i }

/-- What an engine gives to `GEN`: its block size (R9), the bytes its pre-step outputs are stored as (R43), its step. -/
structure StepRule (L : Type) where
  block : Nat
  emit : L → List Byte
  step : L → L

/-- What the loop of `GEN` updates (R104 lines 3 to 7). -/
structure Progress (L : Type) where
  lanes : L
  buffer : Memory
  written : Nat
  deriving DecidableEq, Repr

/-- One turn of the loop, step index `k` (R104, R124 lines 5 to 7): the block emitted is the pre-step outputs (R103), and
it is stored if the buffer has room for it (R105, R125). -/
def StepRule.turn {L : Type} (R : StepRule L) (blen k : Nat) (g : Progress L) : Progress L :=
  if R.block * k + R.block ≤ blen then
    { lanes := R.step g.lanes
      buffer := g.buffer.writeBytes (R.block * k) (R.emit g.lanes)
      written := g.written + R.block }
  else { g with lanes := R.step g.lanes }

/-- `n` turns, the first with step index `k` (R104, R124 line 4). -/
def StepRule.loop {L : Type} (R : StepRule L) (blen : Nat) : (n k : Nat) → Progress L → Progress L
  | 0, _, g => g
  | n + 1, k, g => StepRule.loop R blen n (k + 1) (R.turn blen k g)

/-- What a command computes before it responds. -/
structure Done (L : Type) where
  status : Status
  lanes : L
  buffer : Memory
  written : Nat
  deriving DecidableEq, Repr

/-- `GEN size, blen` on the lanes and the buffer (R104, R124). A failed validation changes nothing (R163). -/
def StepRule.gen {L : Type} (R : StepRule L) (size blen : Nat) (lanes : L) (buffer : Memory) : Done L :=
  match validate R.block size blen with
  | .ok =>
    let g := R.loop blen (size / R.block) 0 ⟨lanes, buffer, 0⟩
    ⟨.ok, g.lanes, g.buffer, g.written⟩
  | e => ⟨e, lanes, buffer, 0⟩

/-- The warm-up of `INIT` (R144, R147 lines 2 to 4): `rounds` rounds of the engine's own `GEN size, 0`, each followed by
the reassignment of the state lanes. `INIT` has no buffer (R140, R150). -/
def StepRule.warmUp {L : Type} (R : StepRule L) (size : Nat) (reassign : L → L) : (rounds : Nat) → L → L
  | 0, l => l
  | r + 1, l => StepRule.warmUp R size reassign r (reassign (R.gen size 0 l []).lanes)

/-- A command of a FULL instance, executed atomically (R7, R50): accepted if the instance is idle, run, answered. -/
def runOnFull (s : State) (f : FullParams → FullLanes → Memory → Done FullLanes) :
    Host.Outcome State Fault Refusal :=
  if s.busy then .refused .issuedWhileBusy
  else match s.engine with
    | .full p l =>
      let d := f p l s.buffer
      .next ((s.accept.store (.full p d.lanes) d.buffer).respond d.status d.written)
    | .half _ _ => .refused .wrongVariant

/-- A command of a HALF instance, executed atomically (R7, R50). -/
def runOnHalf (s : State) (f : HalfParams → HalfLanes → Memory → Done HalfLanes) :
    Host.Outcome State Fault Refusal :=
  if s.busy then .refused .issuedWhileBusy
  else match s.engine with
    | .half p l =>
      let d := f p l s.buffer
      .next ((s.accept.store (.half p d.lanes) d.buffer).respond d.status d.written)
    | .full _ _ => .refused .wrongVariant

end Sys2Proof.Machine
end

