-- ==== Sys2Proof/Machine/Full.lean ====
section
/-! DEFINITION. The Full Engine: its step `STEP.F` (41_full_engine.md R101), its `GEN` (R104), its seed load and its `INIT`
(43_initializer.md R143, R144). -/

namespace Sys2Proof.Machine

open Sys2Proof

/-- `STEP.F`, lines 1 to 6 of R101; line 0, the emitted block, is `emitFull` of the lanes before the step (R103). -/
def stepFull (l : FullLanes) : FullLanes :=
  let a1 := ladd l.s1 l.c
  let a3 := ladd l.s3 l.c
  let u0 := lshr l.s0 1
  let u1 := lshr a1 3
  let u2 := lshr l.s2 1
  let u3 := lshr a3 3
  let t0 := rot20 l.s0
  let t1 := rot12 a1
  let t2 := rot20 l.s2
  let t3 := rot12 a3
  let n0 := ladd t0 u0
  let n1 := ladd t1 u1
  let n2 := ladd t2 u2
  let n3 := ladd t3 u3
  { s0 := n0, s1 := n1, s2 := n2, s3 := n3
    o0 := lxor u0 t1, o1 := lxor u2 t3, o2 := lxor n0 n3, o3 := lxor n2 n1
    c := ladd l.c counterIncrement }

/-- Line 0 of R101: the four output lanes in ascending order, 128 bytes (R43). -/
def emitFull (l : FullLanes) : List Byte :=
  Lane.bytes l.o0 ++ Lane.bytes l.o1 ++ Lane.bytes l.o2 ++ Lane.bytes l.o3

/-- `BLOCK` = 128 (R9). -/
def fullRule : StepRule FullLanes := ⟨128, emitFull, stepFull⟩

/-- `SEEDLOAD` on a FULL instance (R143). -/
def seedLoadFull (p : FullParams) (seed : Fin 4 → Word) : FullLanes :=
  { s0 := Params.seedLane p seed 0, s1 := Params.seedLane p seed 1
    s2 := Params.seedLane p seed 2, s3 := Params.seedLane p seed 3
    o0 := 0, o1 := 0, o2 := 0, o3 := 0, c := 0 }

/-- The reassignment after a warm-up round: the state lanes become the output lanes in reverse order (R145). -/
def reassignFull (l : FullLanes) : FullLanes := { l with s0 := l.o3, s1 := l.o2, s2 := l.o1, s3 := l.o0 }

/-- The lane file `INIT` leaves: seed load, then 13 rounds of `GEN 128, 0` and the reassignment (R144). -/
def initLanesFull (p : FullParams) (seed : Fin 4 → Word) : FullLanes :=
  fullRule.warmUp 128 reassignFull 13 (seedLoadFull p seed)

/-- `INIT` on a FULL instance (R144): always `OK`, 0 (R140). -/
def execInitFull (seed0 seed1 seed2 seed3 : Word) (s : State) : Host.Outcome State Fault Refusal :=
  runOnFull s fun p _ buffer => ⟨.ok, initLanesFull p (seedWord seed0 seed1 seed2 seed3), buffer, 0⟩

/-- `GEN` on a FULL instance (R104). -/
def execGenFull (size blen : Nat) (s : State) : Host.Outcome State Fault Refusal :=
  runOnFull s fun _ l buffer => fullRule.gen size blen l buffer

end Sys2Proof.Machine
end

