-- ==== Sys2Proof/Machine/Half.lean ====
section
/-! DEFINITION. The Half Engine, a machine of its own that shares only the lane primitives with the Full Engine: its step
`STEP.H` (42_half_engine.md R121), its `GEN` (R124), its seed load and its `INIT` (43_initializer.md R143, R147). -/

namespace Sys2Proof.Machine

open Sys2Proof

/-- `STEP.H`, lines 1 to 6 of R121; line 0, the emitted block, is `emitHalf` of the lanes before the step. -/
def stepHalf (l : HalfLanes) : HalfLanes :=
  let a1 := ladd l.s1 l.c
  let u0 := lshr l.s0 1
  let u1 := lshr a1 3
  let t0 := rot20 l.s0
  let t1 := rot12 a1
  { s0 := ladd t0 u0, s1 := ladd t1 u1, o := lxor u0 t1, c := ladd l.c counterIncrement }

/-- Line 0 of R121: the output lane, 32 bytes (R43). -/
def emitHalf (l : HalfLanes) : List Byte := Lane.bytes l.o

/-- `BLOCK` = 32 (R9). -/
def halfRule : StepRule HalfLanes := ⟨32, emitHalf, stepHalf⟩

/-- `SEEDLOAD` on a HALF instance (R143). -/
def seedLoadHalf (p : HalfParams) (seed : Fin 4 → Word) : HalfLanes :=
  { s0 := Params.seedLane p seed 0, s1 := Params.seedLane p seed 1, o := 0, c := 0 }

/-- The reassignment after a warm-up round, both right-hand sides read before either lane is written (R148). -/
def reassignHalf (l : HalfLanes) : HalfLanes := { l with s0 := l.s1, s1 := l.o }

/-- The lane file `INIT` leaves: seed load, then 4 rounds of `GEN 160, 0` and the reassignment (R147). -/
def initLanesHalf (p : HalfParams) (seed : Fin 4 → Word) : HalfLanes :=
  halfRule.warmUp 160 reassignHalf 4 (seedLoadHalf p seed)

/-- `INIT` on a HALF instance (R147): always `OK`, 0 (R140). -/
def execInitHalf (seed0 seed1 seed2 seed3 : Word) (s : State) : Host.Outcome State Fault Refusal :=
  runOnHalf s fun p _ buffer => ⟨.ok, initLanesHalf p (seedWord seed0 seed1 seed2 seed3), buffer, 0⟩

/-- `GEN` on a HALF instance (R124). -/
def execGenHalf (size blen : Nat) (s : State) : Host.Outcome State Fault Refusal :=
  runOnHalf s fun _ l buffer => halfRule.gen size blen l buffer

end Sys2Proof.Machine
end

