-- ==== Sys2Proof/Machine/Dispatch.lean ====
section
/-! DEFINITION. One arm per constructor of Instr (30_encoding.md R64, R73). -/

namespace Sys2Proof.Machine

open Sys2Proof

def exec (i : Instr) (s : State) : Host.Outcome State Fault Refusal :=
  match i with
  | .initFull seed0 seed1 seed2 seed3 => Sys2Proof.Machine.execInitFull seed0 seed1 seed2 seed3 s
  | .initHalf seed0 seed1 seed2 seed3 => Sys2Proof.Machine.execInitHalf seed0 seed1 seed2 seed3 s
  | .genFull size blen => Sys2Proof.Machine.execGenFull size blen s
  | .genHalf size blen => Sys2Proof.Machine.execGenHalf size blen s

end Sys2Proof.Machine
end

