-- ==== Sys2Proof/Machine/Fetch.lean ====
section
/-! DEFINITION. What the instance does next: the block fetches nothing from memory (30_encoding.md R60, 20_memory.md R53);
it takes the host's moves in the order of issue (10_state.md R30, 20_memory.md R50). -/

namespace Sys2Proof.Machine

open Sys2Proof

/-- What the next move of the host leads to: a command to execute, or an answer at once. -/
inductive Fetched where
  | run (i : Instr) (s : State)
  | answer (o : Host.Outcome State Fault Refusal)

/-- A command issued and abandoned by a reset (R191). It has to be accepted first, so it is refused where a command
alone would be (R69, R179). DEDUCED (log entry 14). -/
def fetchAbandoned (d : Descriptor) (s : State) : Fetched :=
  if s.busy then .answer (.refused .issuedWhileBusy)
  else match decodeWords s.engine.variant d with
    | .ok i => .answer (.next (s.abandon i))
    | .error r => .answer (.refused (.invalidDescriptor r))

/-- The descriptor is consumed whole before the command's first store (R53, R60). -/
def fetch (s : State) : Fetched :=
  match s.offers with
  | [] => .answer (.next s.idle)
  | .reset :: rest => .answer (.next (State.doReset (s.take rest none)))
  | .command d buffer :: rest =>
    match decodeWords s.engine.variant d with
    | .ok i => .run i (s.take rest buffer)
    | .error r => .answer (.refused (.invalidDescriptor r))
  | .commandThenReset d buffer :: rest => fetchAbandoned d (s.take rest buffer)

/-- The host issues the command with descriptor `d` next, to the idle instance, with the buffer that is there.
DESIGN CHOICE (log entry 6). -/
def State.offerFirst (s : State) (d : Descriptor) : State :=
  { s with busy := false, offers := .command d none :: s.offers }

end Sys2Proof.Machine
end

