-- ==== Sys2Proof/Machine/Step.lean ====
section
/-! DEFINITION. One step: the host's next move is taken and, if it is a command, executed to completion
(00_scope.md R7, 20_memory.md R50). -/

namespace Sys2Proof.Machine

open Sys2Proof

def step (s : State) : Host.Outcome State Fault Refusal :=
  match fetch s with
  | .run i s' => exec i s'
  | .answer o => o

/-- The state in which the host issues, as its next move, the command of the table word `w` of `nbits` bits.
DESIGN CHOICE (log entry 6). -/
def State.withFetchWord (s : State) (nbits w : Nat) : State :=
  s.offerFirst (Descriptor.ofBytes (tableBytes nbits w))

end Sys2Proof.Machine
end

