-- ==== Sys2Proof/Machine/System.lean ====
section
/-! DEFINITION. Several instances (60_exceptions.md R175): "A model of several instances is the product of the
single-instance models". Log entry 18. -/

namespace Sys2Proof.Machine

open Sys2Proof

/-- Instance `k` takes its step; no other instance is touched. An instance that does not exist does nothing. -/
def stepInstance (k : Nat) (sys : List State) : Host.Outcome (List State) Fault Refusal :=
  match sys[k]? with
  | none => .next sys
  | some s =>
    match step s with
    | .next t => .next (sys.set k t)
    | .fault r => .fault r
    | .refused r => .refused r

/-- The instances take their steps in the order of the schedule, one instance number a step; the run stops at the first
refusal. -/
def runSystem : (schedule : List Nat) → List State → Host.Outcome (List State) Fault Refusal
  | [], sys => .next sys
  | k :: rest, sys =>
    match stepInstance k sys with
    | .next sys' => runSystem rest sys'
    | .fault r => .fault r
    | .refused r => .refused r

end Sys2Proof.Machine
end

