-- ==== Sys2Proof/Safety.lean ====
section
/-! DEFINITION. The terms the claims use: the stream of bytes a lane file emits (41_full_engine.md R110, 20_memory.md
R43), well-formed responses and host moves, and the invariant that every step keeps. -/

namespace Sys2Proof.Machine

open Sys2Proof

/-- `O[i]` of a FULL lane file (R21). -/
def FullLanes.out (l : FullLanes) : Nat → Lane
  | 0 => l.o0
  | 1 => l.o1
  | 2 => l.o2
  | _ => l.o3

/-- Byte `x` of the stream a FULL instance emits from the lane file `l` on, stored or not (R110): step `x / 128` emits
the output lanes as they stand before it (R103), in ascending lane order, each byte 0 first (R43). -/
def fullStream (l : FullLanes) (x : Nat) : Byte :=
  Lane.byte (FullLanes.out (stepFull^[x / 128] l) (x % 128 / 32)) (x % 32)

/-- Byte `x` of the stream a HALF instance emits from the lane file `l` on (R110, R128). -/
def halfStream (l : HalfLanes) (x : Nat) : Byte := Lane.byte (stepHalf^[x / 32] l).o (x % 32)

/-- A response as R66 has them: `WRITTEN` fits its word, and a failed command has written nothing. -/
def Response.wf (r : Response) : Prop := r.written < 2 ^ 64 ∧ (r.status ≠ .ok → r.written = 0)

/-- A host move whose buffer, if it brings one, is in canonical form. -/
def HostMove.wf : HostMove → Prop
  | .reset => True
  | .command _ b => ∀ m, b = some m → Memory.wf m
  | .commandThenReset _ b => ∀ m, b = some m → Memory.wf m

/-- What holds between steps: the instance is idle (R33, R50), its buffer and those still to come are in canonical form,
and the response delivered is one R66 allows. -/
structure State.Inv (s : State) : Prop where
  idle : s.busy = false
  buffer : Memory.wf s.buffer
  response : ∀ r, s.response = some r → Response.wf r
  offers : ∀ m ∈ s.offers, HostMove.wf m

end Sys2Proof.Machine
end

