-- ==== Sys2Proof/Certificates/Slice0/Obligations.lean ====
section
/-! DEFINITION. The statements for the provers, from the numbered rules of spec/. Each docstring names the rules. -/

open Sys2Proof Sys2Proof.Machine

/-! ## Commands and their encoding -/

/-- R30, R50, R60: when the command the host issues next decodes to `i`, the step is `exec i` of the state in which that
move is taken and the buffer is the command's; the same for a descriptor held as bytes. The list of the host's moves, and
that a command without a buffer of its own has the one before, are the model's form (log entries 6 and 8). -/
def Obligations.StepRunsIssuedCommand : Prop :=
  ∀ (s : State) (buffer : Option Memory) (rest : List HostMove) (i : Instr),
    (∀ d, s.offers = .command d buffer :: rest → decodeWords s.engine.variant d = .ok i →
      step s = exec i { s with offers := rest, buffer := buffer.getD s.buffer }) ∧
    (∀ bytes tail, s.offers = .command (Descriptor.ofBytes bytes) buffer :: rest →
      decode s.engine.variant bytes = .ok (i, tail) →
      step s = exec i { s with offers := rest, buffer := buffer.getD s.buffer })

/-- R68, R69: a descriptor that decodes to no command is refused by name. That it is refused also when the host means to
reset the instance during it is the model's deduction (log entry 14). -/
def Obligations.InvalidDescriptorIsRefused : Prop :=
  ∀ (s : State) (d : Descriptor) (buffer : Option Memory) (rest : List HostMove) (r : Reject),
    s.busy = false → (s.offers = .command d buffer :: rest ∨ s.offers = .commandThenReset d buffer :: rest) →
    decodeWords s.engine.variant d = .error r → step s = .refused (.invalidDescriptor r)

/-- R75: the decoder's three cases, for an instance of either variant. -/
def Obligations.DecoderAcceptsExactlyTwoFormats : Prop :=
  ∀ (v : Variant) (d : Descriptor),
    (d.w0 = 0x0000000000000001 → decodeWords v d = .ok (Instr.initOf v d.w1 d.w2 d.w3 d.w4)) ∧
    (d.w0 = 0x0000000000000002 → d.w3 = 0 → d.w4 = 0 →
      decodeWords v d = .ok (Instr.genOf v d.w1.toNat d.w2.toNat)) ∧
    (d.w0 ≠ 0x0000000000000001 → ¬(d.w0 = 0x0000000000000002 ∧ d.w3 = 0 ∧ d.w4 = 0) →
      ∃ r, decodeWords v d = .error r)

/-- R64: a descriptor is valid exactly when it selects a row of the opcode table: `D and mask = match`, word by word with
the table's `mask_words` and `match_words`, the row `INIT` or the row `GEN`. -/
def Obligations.ValidIffTableRowSelected : Prop :=
  ∀ (v : Variant) (d : Descriptor),
    (∃ i, decodeWords v d = .ok i) ↔
      ((d.w0 &&& 0xFFFFFFFFFFFFFFFF = 0x0000000000000001 ∧ d.w1 &&& 0 = 0 ∧ d.w2 &&& 0 = 0 ∧ d.w3 &&& 0 = 0 ∧
        d.w4 &&& 0 = 0) ∨
       (d.w0 &&& 0xFFFFFFFFFFFFFFFF = 0x0000000000000002 ∧ d.w1 &&& 0 = 0 ∧ d.w2 &&& 0 = 0 ∧
        d.w3 &&& 0xFFFFFFFFFFFFFFFF = 0 ∧ d.w4 &&& 0xFFFFFFFFFFFFFFFF = 0))

/-- R60, R75: decoding the 40 bytes of any well-formed command, with any bytes after them, gives the command back and
leaves those bytes. -/
def Obligations.DecodeOfEncodedBytes : Prop :=
  ∀ (i : Instr) (rest : List Byte), i.wellFormed = true →
    decode i.variant (encodeBytes i ++ rest) = .ok (i, rest)

/-- R75: `encode(decode(D)) = D` for every valid descriptor, and what is decoded is a well-formed command of the
instance's own variant. -/
def Obligations.EncodeOfDecodedDescriptor : Prop :=
  ∀ (v : Variant) (d : Descriptor) (i : Instr), decodeWords v d = .ok i →
    encode i = d ∧ i.wellFormed = true ∧ i.variant = v

/-- R62, R63, R68: descriptors written out from the encodings decode to the commands they stand for, or are refused. -/
def Obligations.WrittenOutDescriptorsDecode : Prop :=
  decodeWords .full ⟨1, 0x00000000DEADBEEF, 0x0000000000069420, 0x0123456789101112, 0x0000000013371337⟩ =
    .ok (.initFull 0xDEADBEEF 0x69420 0x123456789101112 0x13371337) ∧
  decodeWords .half ⟨1, 0xFFFFFFFFFFFFFFFF, 2, 3, 4⟩ = .ok (.initHalf 0xFFFFFFFFFFFFFFFF 2 3 4) ∧
  decodeWords .full ⟨2, 0x80, 0xC8, 0, 0⟩ = .ok (.genFull 128 200) ∧
  decodeWords .half ⟨2, 0xA0, 0, 0, 0⟩ = .ok (.genHalf 160 0) ∧
  decodeWords .full ⟨0, 0, 0, 0, 0⟩ = .error .reservedOpcode ∧
  decodeWords .full ⟨0x101, 0, 0, 0, 0⟩ = .error .reservedHeaderBits ∧
  decodeWords .full ⟨2, 0x80, 0x80, 1, 0⟩ = .error .reservedW3 ∧
  decodeWords .half ⟨2, 0x80, 0x80, 0, 1⟩ = .error .reservedW4

/-! ## Lanes -/

/-- R41: the views of a lane are slices of one little-endian integer. -/
def Obligations.LaneViewsAreLittleEndian : Prop :=
  ∀ L : Lane,
    L.toNat = (Lane.word L 0).toNat + (Lane.word L 1).toNat * 2 ^ 64 + (Lane.word L 2).toNat * 2 ^ 128
      + (Lane.word L 3).toNat * 2 ^ 192 ∧
    (∀ k, k < 4 → (Lane.word L k).toNat =
      (Lane.word32 L (2 * k)).toNat + (Lane.word32 L (2 * k + 1)).toNat * 2 ^ 32) ∧
    (∀ i, i < 8 → (Lane.word32 L i).toNat =
      (Lane.byte L (4 * i)).toNat + (Lane.byte L (4 * i + 1)).toNat * 2 ^ 8
      + (Lane.byte L (4 * i + 2)).toNat * 2 ^ 16 + (Lane.byte L (4 * i + 3)).toNat * 2 ^ 24) ∧
    (Lane.lo L).toNat = (Lane.word L 0).toNat + (Lane.word L 1).toNat * 2 ^ 64 ∧
    (Lane.hi L).toNat = (Lane.word L 2).toNat + (Lane.word L 3).toNat * 2 ^ 64

/-- R80: `LADD` is four independent additions modulo 2^64. -/
def Obligations.LaddAddsWordByWord : Prop :=
  ∀ a b c : Lane,
    (∀ k, k < 4 → (Lane.word (ladd a b) k).toNat = ((Lane.word a k).toNat + (Lane.word b k).toNat) % 2 ^ 64) ∧
    ladd a b = ladd b a ∧ ladd (ladd a b) c = ladd a (ladd b c) ∧ ladd a 0 = a

/-- R81: `LSHR` is four independent logical right shifts. -/
def Obligations.LshrShiftsWordByWord : Prop :=
  ∀ (a : Lane) (n k : Nat), k < 4 → (Lane.word (lshr a n) k).toNat = (Lane.word a k).toNat / 2 ^ n

/-- R82: `LXOR` is the exclusive or, bit by bit, byte by byte and word by word. -/
def Obligations.LxorInEveryView : Prop :=
  ∀ a b : Lane,
    (∀ i, (lxor a b).getLsbD i = (a.getLsbD i ^^ b.getLsbD i)) ∧
    (∀ j, j < 32 → Lane.byte (lxor a b) j = Lane.byte a j ^^^ Lane.byte b j) ∧
    (∀ k, k < 4 → Lane.word (lxor a b) k = Lane.word a k ^^^ Lane.word b k) ∧
    lxor a a = 0 ∧ lxor a 0 = a

/-- R84: `ALIGNR` is the byte window, as bytes and as integers. -/
def Obligations.AlignrIsTheByteWindow : Prop :=
  ∀ (lower upper : LaneHalf) (amount : Fin 16),
    (∀ j, j < 16 → slice 8 (alignr lower upper amount) j =
      if j + amount.val < 16 then slice 8 lower (j + amount.val) else slice 8 upper (j + amount.val - 16)) ∧
    (alignr lower upper amount).toNat =
      (upper.toNat * 2 ^ 128 + lower.toNat) / 2 ^ (8 * amount.val) % 2 ^ 128 ∧
    alignr lower upper 0 = lower

/-- R91: `ALIGNR` equals the shift-and-or of the two halves. -/
def Obligations.AlignrIsShiftAndOr : Prop :=
  ∀ (lower upper : LaneHalf) (amount : Fin 16),
    (amount = 0 → alignr lower upper amount = lower) ∧
    (amount ≠ 0 → alignr lower upper amount =
      (lower >>> (8 * amount.val)) ||| (upper <<< (128 - 8 * amount.val)))

/-- R90 (R86, R87): the byte maps, the word permutations, the two-window forms and the integer forms of both rotations
agree on every lane. -/
def Obligations.RotationsAgreeInEveryForm : Prop :=
  ∀ L : Lane,
    (∀ j, j < 32 → Lane.byte (rot12 L) j = Lane.byte L ((j + 12) % 32)) ∧
    (∀ j, j < 32 → Lane.byte (rot20 L) j = Lane.byte L ((j + 20) % 32)) ∧
    rot12 L = perm32 L #v[3, 4, 5, 6, 7, 0, 1, 2] ∧
    rot20 L = perm32 L #v[5, 6, 7, 0, 1, 2, 3, 4] ∧
    rot12 L = Lane.ofHalves (alignr (Lane.lo L) (Lane.hi L) 12) (alignr (Lane.hi L) (Lane.lo L) 12) ∧
    rot20 L = Lane.ofHalves (alignr (Lane.hi L) (Lane.lo L) 4) (alignr (Lane.lo L) (Lane.hi L) 4) ∧
    rot12 L = (L >>> 96) ||| (L <<< 160) ∧
    rot20 L = (L >>> 160) ||| (L <<< 96)

/-- R86, R87: the 64-bit words of a rotated lane, and where each of its bits comes from. -/
def Obligations.RotationWordsAndBits : Prop :=
  ∀ L : Lane,
    (∀ k, k < 4 → Lane.word (rot12 L) k = Lane.word32 L ((2 * k + 4) % 8) ++ Lane.word32 L ((2 * k + 3) % 8)) ∧
    (∀ k, k < 4 → Lane.word (rot20 L) k = Lane.word32 L ((2 * k + 6) % 8) ++ Lane.word32 L ((2 * k + 5) % 8)) ∧
    (∀ p, p < 256 → (rot12 L).getLsbD p = L.getLsbD ((p + 96) % 256)) ∧
    (∀ p, p < 256 → (rot20 L).getLsbD p = L.getLsbD ((p + 160) % 256))

/-- R92: the rotations are inverse to each other, distribute over `LXOR`, are rotations by 4 bytes repeated, and neither
distribute over `LADD` nor commute with the shifts the steps pair them with. -/
def Obligations.RotationLaws : Prop :=
  (∀ L : Lane, rot12 (rot20 L) = L ∧ rot20 (rot12 L) = L ∧
    rot12 L = (rotateBytes 4)^[3] L ∧ rot20 L = (rotateBytes 4)^[5] L) ∧
  (∀ a b : Lane, rot12 (lxor a b) = lxor (rot12 a) (rot12 b) ∧ rot20 (lxor a b) = lxor (rot20 a) (rot20 b)) ∧
  (∃ a b : Lane, rot12 (ladd a b) ≠ ladd (rot12 a) (rot12 b)) ∧
  (∃ a b : Lane, rot20 (ladd a b) ≠ ladd (rot20 a) (rot20 b)) ∧
  (∃ a : Lane, rot12 (lshr a 3) ≠ lshr (rot12 a) 3) ∧ (∃ a : Lane, rot20 (lshr a 1) ≠ lshr (rot20 a) 1)

/-! ## GEN -/

/-- R101, R102, R103, R43: `GEN 128, 128` on an idle FULL instance is one step. It stores the output lanes as they were
before the step, replaces all nine lanes by the values R102 writes out, and changes nothing else. -/
def Obligations.FullStepLineByLine : Prop :=
  ∀ (s : State) (p : FullParams) (l : FullLanes), s.busy = false → s.engine = .full p l →
    ∃ (t : State) (n0 n1 n2 n3 : Lane), exec (.genFull 128 128) s = .next t ∧
      n0 = ladd (rot20 l.s0) (lshr l.s0 1) ∧
      n1 = ladd (rot12 (ladd l.s1 l.c)) (lshr (ladd l.s1 l.c) 3) ∧
      n2 = ladd (rot20 l.s2) (lshr l.s2 1) ∧
      n3 = ladd (rot12 (ladd l.s3 l.c)) (lshr (ladd l.s3 l.c) 3) ∧
      t = { s with
            engine := .full p
              { s0 := n0, s1 := n1, s2 := n2, s3 := n3
                o0 := lxor (lshr l.s0 1) (rot12 (ladd l.s1 l.c))
                o1 := lxor (lshr l.s2 1) (rot12 (ladd l.s3 l.c))
                o2 := lxor n0 n3, o3 := lxor n2 n1
                c := ladd l.c (Lane.lit 7 5 3 1) }
            buffer := t.buffer
            response := some ⟨.ok, 128⟩ } ∧
      (∀ j, j < 32 → t.buffer.read j = some (Lane.byte l.o0 j) ∧ t.buffer.read (32 + j) = some (Lane.byte l.o1 j) ∧
        t.buffer.read (64 + j) = some (Lane.byte l.o2 j) ∧ t.buffer.read (96 + j) = some (Lane.byte l.o3 j)) ∧
      (∀ x, 128 ≤ x → t.buffer.read x = s.buffer.read x)

/-- R121, R122, R43: `GEN 32, 32` on an idle HALF instance is one step. -/
def Obligations.HalfStepLineByLine : Prop :=
  ∀ (s : State) (p : HalfParams) (l : HalfLanes), s.busy = false → s.engine = .half p l →
    ∃ t : State, exec (.genHalf 32 32) s = .next t ∧
      t = { s with
            engine := .half p
              { s0 := ladd (rot20 l.s0) (lshr l.s0 1)
                s1 := ladd (rot12 (ladd l.s1 l.c)) (lshr (ladd l.s1 l.c) 3)
                o := lxor (lshr l.s0 1) (rot12 (ladd l.s1 l.c))
                c := ladd l.c (Lane.lit 7 5 3 1) }
            buffer := t.buffer
            response := some ⟨.ok, 32⟩ } ∧
      (∀ j, j < 32 → t.buffer.read j = some (Lane.byte l.o j)) ∧
      (∀ x, 32 ≤ x → t.buffer.read x = s.buffer.read x)

/-- R104, R107, R49, R66: a valid `GEN` with a buffer on an idle FULL instance runs `size / 128` steps, stores exactly the
offsets below `size` with the stream from the lanes on, answers `OK` and `size`, and changes nothing else. -/
def Obligations.GenFullStoresTheStream : Prop :=
  ∀ (s : State) (p : FullParams) (l : FullLanes) (size blen : Nat), s.busy = false → s.engine = .full p l →
    size % 128 = 0 → blen ≠ 0 → size ≤ blen →
    ∃ t : State, exec (.genFull size blen) s = .next t ∧
      t = { s with engine := .full p (stepFull^[size / 128] l), buffer := t.buffer, response := some ⟨.ok, size⟩ } ∧
      (∀ x, x < size → t.buffer.read x = some (fullStream l x)) ∧
      (∀ x, size ≤ x → t.buffer.read x = s.buffer.read x)

/-- R124, R127, R49, R66: the same of a HALF instance with 32 for 128. -/
def Obligations.GenHalfStoresTheStream : Prop :=
  ∀ (s : State) (p : HalfParams) (l : HalfLanes) (size blen : Nat), s.busy = false → s.engine = .half p l →
    size % 32 = 0 → blen ≠ 0 → size ≤ blen →
    ∃ t : State, exec (.genHalf size blen) s = .next t ∧
      t = { s with engine := .half p (stepHalf^[size / 32] l), buffer := t.buffer, response := some ⟨.ok, size⟩ } ∧
      (∀ x, x < size → t.buffer.read x = some (halfStream l x)) ∧
      (∀ x, size ≤ x → t.buffer.read x = s.buffer.read x)

/-- R100: the contract of `generate` on a FULL instance: a violated precondition is an error answered before anything is
changed; with no buffer the state advances and nothing is recorded. -/
def Obligations.GenFullContract : Prop :=
  ∀ (s : State) (p : FullParams) (l : FullLanes) (size blen : Nat), s.busy = false → s.engine = .full p l →
    ((size % 128 ≠ 0 ∨ (blen ≠ 0 ∧ blen < size)) →
      ∃ e, e ≠ Status.ok ∧ exec (.genFull size blen) s = .next { s with response := some ⟨e, 0⟩ }) ∧
    (size % 128 = 0 → exec (.genFull size 0) s =
      .next { s with engine := .full p (stepFull^[size / 128] l), response := some ⟨.ok, 0⟩ }) ∧
    (size % 128 = 0 → blen ≠ 0 → size ≤ blen →
      ∃ t, exec (.genFull size blen) s = .next t ∧ t.response = some ⟨.ok, size⟩)

/-- R120: the same contract on a HALF instance with 32 for 128. -/
def Obligations.GenHalfContract : Prop :=
  ∀ (s : State) (p : HalfParams) (l : HalfLanes) (size blen : Nat), s.busy = false → s.engine = .half p l →
    ((size % 32 ≠ 0 ∨ (blen ≠ 0 ∧ blen < size)) →
      ∃ e, e ≠ Status.ok ∧ exec (.genHalf size blen) s = .next { s with response := some ⟨e, 0⟩ }) ∧
    (size % 32 = 0 → exec (.genHalf size 0) s =
      .next { s with engine := .half p (stepHalf^[size / 32] l), response := some ⟨.ok, 0⟩ }) ∧
    (size % 32 = 0 → blen ≠ 0 → size ≤ blen →
      ∃ t, exec (.genHalf size blen) s = .next t ∧ t.response = some ⟨.ok, size⟩)

/-- R161: the status is 0x01, with nothing recorded beside it, exactly for a `GEN` whose `size` is no multiple of the block
size of the instance. -/
def Obligations.SizeErrorExactly : Prop :=
  ∀ (s : State) (i : Instr), s.busy = false → i.variant = s.engine.variant →
    ∃ t r, exec i s = .next t ∧ t.response = some r ∧
      (Response.rsp0 r = 0x01 ↔ ∃ size blen, (i = .genFull size blen ∧ size % 128 ≠ 0) ∨
        (i = .genHalf size blen ∧ size % 32 ≠ 0)) ∧
      (Response.rsp0 r = 0x01 → Response.rsp1 r = 0)

/-- R162, R164: the status is 0x02 exactly for a `GEN` of a whole number of blocks with a buffer that is too short; when
both conditions hold the status is 0x01, the size error. -/
def Obligations.BufferErrorExactly : Prop :=
  ∀ (s : State) (i : Instr), s.busy = false → i.variant = s.engine.variant →
    ∃ t r, exec i s = .next t ∧ t.response = some r ∧
      (Response.rsp0 r = 0x02 ↔ ∃ size blen, blen ≠ 0 ∧ blen < size ∧
        ((i = .genFull size blen ∧ size % 128 = 0) ∨ (i = .genHalf size blen ∧ size % 32 = 0))) ∧
      (Response.rsp0 r = 0x02 → Response.rsp1 r = 0) ∧
      (∀ size blen, blen ≠ 0 → blen < size →
        ((i = .genFull size blen ∧ size % 128 ≠ 0) ∨ (i = .genHalf size blen ∧ size % 32 ≠ 0)) →
        Response.rsp0 r = 0x01 ∧ Response.rsp1 r = 0)

/-- R171: every command of the instance's own variant answers a next state, and its stores stay inside its buffer. -/
def Obligations.CommandsNeverFail : Prop :=
  ∀ (s : State) (i : Instr), s.busy = false → i.variant = s.engine.variant →
    ∃ t, exec i s = .next t ∧
      (∀ size blen, i = .genFull size blen ∨ i = .genHalf size blen →
        ∀ x, blen ≤ x → t.buffer.read x = s.buffer.read x) ∧
      (∀ a b c d, i = .initFull a b c d ∨ i = .initHalf a b c d → t.buffer = s.buffer)

/-- R106, R126: `GEN 0` is valid for every `blen` and changes nothing; `NOP` is one of them (R72). -/
def Obligations.GenOfSizeZeroChangesNothing : Prop :=
  ∀ (s : State) (v : Variant) (blen : Nat), s.busy = false → s.engine.variant = v →
    exec (Instr.genOf v 0 blen) s = .next { s with response := some ⟨.ok, 0⟩ } ∧
    exec (Instr.nop v) s = .next { s with response := some ⟨.ok, 0⟩ }

/-- R66, R67, R165: the two words of the response of a `GEN`, in each of its outcomes, on either engine. -/
def Obligations.ResponseWordsOfGen : Prop :=
  (∀ (s : State) (p : FullParams) (l : FullLanes) (size blen : Nat), s.busy = false → s.engine = .full p l →
    size < 2 ^ 64 →
    ∃ t r, exec (.genFull size blen) s = .next t ∧ t.response = some r ∧
      (size % 128 ≠ 0 → (Response.rsp0 r).toNat = 1 ∧ (Response.rsp1 r).toNat = 0) ∧
      (size % 128 = 0 → blen ≠ 0 → blen < size → (Response.rsp0 r).toNat = 2 ∧ (Response.rsp1 r).toNat = 0) ∧
      (size % 128 = 0 → blen ≠ 0 → size ≤ blen → (Response.rsp0 r).toNat = 0 ∧ (Response.rsp1 r).toNat = size) ∧
      (size % 128 = 0 → blen = 0 → (Response.rsp0 r).toNat = 0 ∧ (Response.rsp1 r).toNat = 0)) ∧
  (∀ (s : State) (p : HalfParams) (l : HalfLanes) (size blen : Nat), s.busy = false → s.engine = .half p l →
    size < 2 ^ 64 →
    ∃ t r, exec (.genHalf size blen) s = .next t ∧ t.response = some r ∧
      (size % 32 ≠ 0 → (Response.rsp0 r).toNat = 1 ∧ (Response.rsp1 r).toNat = 0) ∧
      (size % 32 = 0 → blen ≠ 0 → blen < size → (Response.rsp0 r).toNat = 2 ∧ (Response.rsp1 r).toNat = 0) ∧
      (size % 32 = 0 → blen ≠ 0 → size ≤ blen → (Response.rsp0 r).toNat = 0 ∧ (Response.rsp1 r).toNat = size) ∧
      (size % 32 = 0 → blen = 0 → (Response.rsp0 r).toNat = 0 ∧ (Response.rsp1 r).toNat = 0))

/-- R26, R107, R127: a valid `GEN` of n steps advances the counter words by 7n, 5n, 3n and n modulo 2^64. -/
def Obligations.CounterAdvancesPerStep : Prop :=
  (∀ (s : State) (p : FullParams) (l : FullLanes) (size blen : Nat), s.busy = false → s.engine = .full p l →
    size % 128 = 0 → (blen = 0 ∨ size ≤ blen) →
    ∃ t l', exec (.genFull size blen) s = .next t ∧ t.engine = .full p l' ∧
      (Lane.word l'.c 0).toNat = ((Lane.word l.c 0).toNat + 7 * (size / 128)) % 2 ^ 64 ∧
      (Lane.word l'.c 1).toNat = ((Lane.word l.c 1).toNat + 5 * (size / 128)) % 2 ^ 64 ∧
      (Lane.word l'.c 2).toNat = ((Lane.word l.c 2).toNat + 3 * (size / 128)) % 2 ^ 64 ∧
      (Lane.word l'.c 3).toNat = ((Lane.word l.c 3).toNat + size / 128) % 2 ^ 64) ∧
  (∀ (s : State) (p : HalfParams) (l : HalfLanes) (size blen : Nat), s.busy = false → s.engine = .half p l →
    size % 32 = 0 → (blen = 0 ∨ size ≤ blen) →
    ∃ t l', exec (.genHalf size blen) s = .next t ∧ t.engine = .half p l' ∧
      (Lane.word l'.c 0).toNat = ((Lane.word l.c 0).toNat + 7 * (size / 32)) % 2 ^ 64 ∧
      (Lane.word l'.c 1).toNat = ((Lane.word l.c 1).toNat + 5 * (size / 32)) % 2 ^ 64 ∧
      (Lane.word l'.c 2).toNat = ((Lane.word l.c 2).toNat + 3 * (size / 32)) % 2 ^ 64 ∧
      (Lane.word l'.c 3).toNat = ((Lane.word l.c 3).toNat + size / 32) % 2 ^ 64)

/-- R27, on either engine and for every counter word: from a zero counter, word k is INC[k]·n modulo 2^64 after n steps,
is INC[k]·n itself, so strictly rising, as long as n is at most (2^64 − 1) / INC[k], and wraps at the step after that; for
word 0 that is step 2635249153387078803. -/
def Obligations.CounterRisesUntilItWraps : Prop :=
  (∀ k inc : Nat, (k, inc) ∈ [(0, 7), (1, 5), (2, 3), (3, 1)] →
    (∀ l : FullLanes, l.c = 0 →
      (∀ n, (Lane.word (stepFull^[n] l).c k).toNat = inc * n % 2 ^ 64) ∧
      (∀ m n, m < n → n ≤ (2 ^ 64 - 1) / inc → (Lane.word (stepFull^[n] l).c k).toNat = inc * n ∧
        (Lane.word (stepFull^[m] l).c k).toNat < (Lane.word (stepFull^[n] l).c k).toNat) ∧
      (Lane.word (stepFull^[(2 ^ 64 - 1) / inc + 1] l).c k).toNat
        < (Lane.word (stepFull^[(2 ^ 64 - 1) / inc] l).c k).toNat) ∧
    (∀ l : HalfLanes, l.c = 0 →
      (∀ n, (Lane.word (stepHalf^[n] l).c k).toNat = inc * n % 2 ^ 64) ∧
      (∀ m n, m < n → n ≤ (2 ^ 64 - 1) / inc → (Lane.word (stepHalf^[n] l).c k).toNat = inc * n ∧
        (Lane.word (stepHalf^[m] l).c k).toNat < (Lane.word (stepHalf^[n] l).c k).toNat) ∧
      (Lane.word (stepHalf^[(2 ^ 64 - 1) / inc + 1] l).c k).toNat
        < (Lane.word (stepHalf^[(2 ^ 64 - 1) / inc] l).c k).toNat)) ∧
  (2 ^ 64 - 1) / 7 + 1 = 2635249153387078803

/-- R112 (2), R123 (2): the even state lanes evolve by themselves alone, and a zero one stays zero. -/
def Obligations.EvenLanesEvolveAlone : Prop :=
  ∀ n : Nat,
    (∀ l : FullLanes,
      (stepFull^[n] l).s0 = (fun x => ladd (rot20 x) (lshr x 1))^[n] l.s0 ∧
      (stepFull^[n] l).s2 = (fun x => ladd (rot20 x) (lshr x 1))^[n] l.s2 ∧
      (l.s0 = 0 → (stepFull^[n] l).s0 = 0) ∧ (l.s2 = 0 → (stepFull^[n] l).s2 = 0)) ∧
    (∀ l : HalfLanes,
      (stepHalf^[n] l).s0 = (fun x => ladd (rot20 x) (lshr x 1))^[n] l.s0 ∧ (l.s0 = 0 → (stepHalf^[n] l).s0 = 0))

/-- R102, R122, R197 (5): on either engine, after at least one step the lane file and the response do not depend on the
outputs that were pending. -/
def Obligations.PendingOutputsOnlyEmitted : Prop :=
  (∀ (s : State) (p : FullParams) (l : FullLanes) (o0 o1 o2 o3 : Lane) (size blen : Nat), s.busy = false →
    s.engine = .full p l → 128 ≤ size → size % 128 = 0 → (blen = 0 ∨ size ≤ blen) →
    ∃ t u, exec (.genFull size blen) s = .next t ∧
      exec (.genFull size blen)
        { s with engine := .full p { l with o0 := o0, o1 := o1, o2 := o2, o3 := o3 } } = .next u ∧
      t.engine = u.engine ∧ t.response = u.response) ∧
  (∀ (s : State) (p : HalfParams) (l : HalfLanes) (o : Lane) (size blen : Nat), s.busy = false →
    s.engine = .half p l → 32 ≤ size → size % 32 = 0 → (blen = 0 ∨ size ≤ blen) →
    ∃ t u, exec (.genHalf size blen) s = .next t ∧
      exec (.genHalf size blen) { s with engine := .half p { l with o := o } } = .next u ∧
      t.engine = u.engine ∧ t.response = u.response)

/-- R108: on a FULL instance `GEN N; GEN M` leaves the lane file of `GEN N+M`, and stores the same last M bytes. -/
def Obligations.AdvanceEquivalenceFull : Prop :=
  ∀ (s : State) (p : FullParams) (l : FullLanes) (N M b1 b2 b : Nat), s.busy = false → s.engine = .full p l →
    N % 128 = 0 → M % 128 = 0 → (b1 = 0 ∨ N ≤ b1) → (b2 = 0 ∨ M ≤ b2) → (b = 0 ∨ N + M ≤ b) →
    ∃ t1 t2 t, exec (.genFull N b1) s = .next t1 ∧ exec (.genFull M b2) t1 = .next t2 ∧
      exec (.genFull (N + M) b) s = .next t ∧ t2.engine = t.engine ∧
      (b2 ≠ 0 → b ≠ 0 → ∀ x, x < M → t2.buffer.read x = t.buffer.read (N + x))

/-- R108, R128: the same on a HALF instance. -/
def Obligations.AdvanceEquivalenceHalf : Prop :=
  ∀ (s : State) (p : HalfParams) (l : HalfLanes) (N M b1 b2 b : Nat), s.busy = false → s.engine = .half p l →
    N % 32 = 0 → M % 32 = 0 → (b1 = 0 ∨ N ≤ b1) → (b2 = 0 ∨ M ≤ b2) → (b = 0 ∨ N + M ≤ b) →
    ∃ t1 t2 t, exec (.genHalf N b1) s = .next t1 ∧ exec (.genHalf M b2) t1 = .next t2 ∧
      exec (.genHalf (N + M) b) s = .next t ∧ t2.engine = t.engine ∧
      (b2 ≠ 0 → b ≠ 0 → ∀ x, x < M → t2.buffer.read x = t.buffer.read (N + x))

/-- R109, R128: `GEN S, 0` leaves the lane file of `GEN S, blen` for every `blen` that is long enough; `SKIP S` is the
first of the two (R72). -/
def Obligations.NullBufferEquivalence : Prop :=
  ∀ (s : State) (v : Variant) (size blen : Nat), s.busy = false → s.engine.variant = v → size ≤ blen →
    ∃ t u, exec (Instr.skip v size) s = .next t ∧ exec (Instr.genOf v size blen) s = .next u ∧
      t.engine = u.engine ∧ t.buffer = s.buffer

/-- R45: what the buffer held before has no influence on the lanes, the response or the bytes stored. -/
def Obligations.BufferContentsAreNeverRead : Prop :=
  ∀ (s t : State) (m : Memory) (i : Instr), exec i s = .next t →
    ∃ u, exec i { s with buffer := m } = .next u ∧ u.engine = t.engine ∧ u.response = t.response ∧
      ∀ r x, t.response = some r → x < r.written → u.buffer.read x = t.buffer.read x

/-! ## INIT -/

/-- R143: every word of the state lanes that the seed load writes, the outputs and the counter zero, on a FULL instance. -/
def Obligations.SeedLoadFullWords : Prop :=
  ∀ (p : FullParams) (seed : Fin 4 → Word) (i : Fin 4) (L : Lane) (l : FullLanes) (m : Placement 16),
    l = seedLoadFull p seed → m = p.seedMap[i] → [l.s0, l.s1, l.s2, l.s3][i.val]? = some L →
    Lane.word L 0 = p.phi[m.phi0] ^^^ (if m.seeded = .even then seed m.seedLow else 0) ∧
    Lane.word L 1 = p.phi[m.phi1] ^^^ (if m.seeded = .odd then seed m.seedLow else 0) ∧
    Lane.word L 2 = p.phi[m.phi2] ^^^ (if m.seeded = .even then seed m.seedHigh else 0) ∧
    Lane.word L 3 = p.phi[m.phi3] ^^^ (if m.seeded = .odd then seed m.seedHigh else 0) ∧
    l.o0 = 0 ∧ l.o1 = 0 ∧ l.o2 = 0 ∧ l.o3 = 0 ∧ l.c = 0

/-- R143: the same on a HALF instance. -/
def Obligations.SeedLoadHalfWords : Prop :=
  ∀ (p : HalfParams) (seed : Fin 4 → Word) (i : Fin 2) (L : Lane) (l : HalfLanes) (m : Placement 8),
    l = seedLoadHalf p seed → m = p.seedMap[i] → [l.s0, l.s1][i.val]? = some L →
    Lane.word L 0 = p.phi[m.phi0] ^^^ (if m.seeded = .even then seed m.seedLow else 0) ∧
    Lane.word L 1 = p.phi[m.phi1] ^^^ (if m.seeded = .odd then seed m.seedLow else 0) ∧
    Lane.word L 2 = p.phi[m.phi2] ^^^ (if m.seeded = .even then seed m.seedHigh else 0) ∧
    Lane.word L 3 = p.phi[m.phi3] ^^^ (if m.seeded = .odd then seed m.seedHigh else 0) ∧
    l.o = 0 ∧ l.c = 0

/-- R144, R145, R146: `INIT` on an idle FULL instance answers `OK`, 0; the lanes are 13 rounds of one step and the reversed
output lanes from the seed load on; afterwards S[i] = O[3 − i] and C = 91, 65, 39, 13; nothing else changes. -/
def Obligations.InitFullResult : Prop :=
  ∀ (s : State) (p : FullParams) (l : FullLanes) (a b c d : Word), s.busy = false → s.engine = .full p l →
    ∃ l' : FullLanes, exec (.initFull a b c d) s =
        .next { s with engine := .full p l', response := some ⟨.ok, 0⟩ } ∧
      l' = (fun x => { stepFull x with
              s0 := (stepFull x).o3, s1 := (stepFull x).o2, s2 := (stepFull x).o1, s3 := (stepFull x).o0 })^[13]
            (seedLoadFull p (seedWord a b c d)) ∧
      l'.s0 = l'.o3 ∧ l'.s1 = l'.o2 ∧ l'.s2 = l'.o1 ∧ l'.s3 = l'.o0 ∧ l'.c = Lane.lit 91 65 39 13

/-- R147, R148, R149: `INIT` on an idle HALF instance: 4 rounds of five steps, each followed by S[0] := S[1], S[1] := O. -/
def Obligations.InitHalfResult : Prop :=
  ∀ (s : State) (p : HalfParams) (l : HalfLanes) (a b c d : Word), s.busy = false → s.engine = .half p l →
    ∃ l' : HalfLanes, exec (.initHalf a b c d) s =
        .next { s with engine := .half p l', response := some ⟨.ok, 0⟩ } ∧
      l' = (fun x => { stepHalf^[5] x with s0 := (stepHalf^[5] x).s1, s1 := (stepHalf^[5] x).o })^[4]
            (seedLoadHalf p (seedWord a b c d)) ∧
      l'.s1 = l'.o ∧ l'.c = Lane.lit 140 100 60 20

/-- R151: `INIT` with the same seed and the same parameters leaves the same lane file from any two states, so two instances
so initialised store the same bytes for the same `GEN`. -/
def Obligations.InitForgetsThePreviousState : Prop :=
  ∀ (s u : State) (v : Variant) (a b c d : Word), s.busy = false → u.busy = false → s.engine.build = u.engine.build →
    s.engine.variant = v →
    ∃ s1 u1, exec (Instr.initOf v a b c d) s = .next s1 ∧ exec (Instr.initOf v a b c d) u = .next u1 ∧
      s1.engine = u1.engine ∧
      ∀ size blen, ∃ s2 u2, exec (Instr.genOf v size blen) s1 = .next s2 ∧
        exec (Instr.genOf v size blen) u1 = .next u2 ∧ s2.engine = u2.engine ∧ s2.response = u2.response ∧
        ∀ r x, s2.response = some r → x < r.written → s2.buffer.read x = u2.buffer.read x

/-- R146 (3), R149 (3): the first block after `INIT` is the state lanes it left, in reverse lane order. -/
def Obligations.FirstBlockAfterInit : Prop :=
  (∀ (s : State) (p : FullParams) (l : FullLanes) (a b c d : Word), s.busy = false → s.engine = .full p l →
    ∃ t l' u, exec (.initFull a b c d) s = .next t ∧ t.engine = .full p l' ∧ exec (.genFull 128 128) t = .next u ∧
      ∀ j, j < 32 → u.buffer.read j = some (Lane.byte l'.s3 j) ∧ u.buffer.read (32 + j) = some (Lane.byte l'.s2 j) ∧
        u.buffer.read (64 + j) = some (Lane.byte l'.s1 j) ∧ u.buffer.read (96 + j) = some (Lane.byte l'.s0 j)) ∧
  (∀ (s : State) (p : HalfParams) (l : HalfLanes) (a b c d : Word), s.busy = false → s.engine = .half p l →
    ∃ t l' u, exec (.initHalf a b c d) s = .next t ∧ t.engine = .half p l' ∧ exec (.genHalf 32 32) t = .next u ∧
      ∀ j, j < 32 → u.buffer.read j = some (Lane.byte l'.s1 j))

/-- R110, R153: on any instance, `INIT`, then `SKIP a`, then `GEN size` stores the bytes a .. a + size − 1 of the one stream
that the seed and the parameters determine. -/
def Obligations.SkipThenGenerateReadsTheStream : Prop :=
  (∀ (s : State) (p : FullParams) (l : FullLanes) (w x y z : Word) (a size blen : Nat), s.busy = false →
    s.engine = .full p l → a % 128 = 0 → size % 128 = 0 → blen ≠ 0 → size ≤ blen →
    ∃ t1 t2 t3, exec (.initFull w x y z) s = .next t1 ∧ exec (.genFull a 0) t1 = .next t2 ∧
      exec (.genFull size blen) t2 = .next t3 ∧
      ∀ k, k < size → t3.buffer.read k = some (fullStream (initLanesFull p (seedWord w x y z)) (a + k))) ∧
  (∀ (s : State) (p : HalfParams) (l : HalfLanes) (w x y z : Word) (a size blen : Nat), s.busy = false →
    s.engine = .half p l → a % 32 = 0 → size % 32 = 0 → blen ≠ 0 → size ≤ blen →
    ∃ t1 t2 t3, exec (.initHalf w x y z) s = .next t1 ∧ exec (.genHalf a 0) t1 = .next t2 ∧
      exec (.genHalf size blen) t2 = .next t3 ∧
      ∀ k, k < size → t3.buffer.read k = some (halfStream (initLanesHalf p (seedWord w x y z)) (a + k)))

/-! ## Reset, idling, the command port -/

/-- R35, R190: an instance of either build is idle after reset, with nothing issued and no response pending, and each of
its lane registers holds a free value of its own. That these are the free values from number `n` on, for whatever `n`, is
the model's choice (log entry 3). -/
def Obligations.ResetLeavesLanesFree : Prop :=
  ∀ (b : Build) (n : Nat), (State.resetOf b n).busy = false ∧ (State.resetOf b n).response = none ∧
    (State.resetOf b n).offers = [] ∧
    (∀ p, b = .full p → (State.resetOf b n).engine = .full p
      ⟨Config.freeLane n, Config.freeLane (n + 1), Config.freeLane (n + 2), Config.freeLane (n + 3),
        Config.freeLane (n + 4), Config.freeLane (n + 5), Config.freeLane (n + 6), Config.freeLane (n + 7),
        Config.freeLane (n + 8)⟩) ∧
    (∀ p, b = .half p → (State.resetOf b n).engine = .half p
      ⟨Config.freeLane n, Config.freeLane (n + 1), Config.freeLane (n + 2), Config.freeLane (n + 3)⟩)

/-- The invariant holds at `State.reset` and after the reset of every build. -/
def Obligations.InvariantAtReset : Prop := State.reset.Inv ∧ ∀ (b : Build) (n : Nat), (State.resetOf b n).Inv

/-- R33, R48, R50, R66: between steps the instance is idle, its buffer is in canonical form and the response is one R66
allows; every step keeps that, from every state in which it holds. The canonical form is the model's (log entry 5). -/
def Obligations.StepKeepsInvariant : Prop :=
  ∀ s t : State, s.Inv → step s = .next t → t.Inv

/-- R8, R10: no step changes which engine an instance is, nor its parameters. -/
def Obligations.StepKeepsTheBuild : Prop :=
  ∀ s t : State, step s = .next t → t.engine.build = s.engine.build

/-- R190: a reset between commands leaves the instance idle with no response, all its lanes replaced by free values, the
host's buffer and the rest of what the host has issued as they were. -/
def Obligations.ResetBetweenCommands : Prop :=
  ∀ (s : State) (rest : List HostMove), s.busy = false → s.offers = .reset :: rest →
    step s = .next { s with
      engine := Engine.unspecified s.engine.build s.draws
      draws := s.draws + Build.laneCount s.engine.build
      response := none
      offers := rest }

/-- R191, R40: a reset during a `GEN`, with a buffer it brings or the one before, leaves no response, free lanes, free bytes
at the offsets below `size` as far as there is a buffer, and every other offset as it was. That the offsets end at `blen`
where that is smaller, and that this is so also for a `GEN` that would have failed validation, are the model's deductions
(log entry 4); which free values they are is the model's choice (log entries 3 and 4). -/
def Obligations.ResetDuringGen : Prop :=
  ∀ (s : State) (d : Descriptor) (buffer : Option Memory) (rest : List HostMove) (size blen : Nat), s.busy = false →
    s.offers = .commandThenReset d buffer :: rest →
    decodeWords s.engine.variant d = .ok (Instr.genOf s.engine.variant size blen) →
    ∃ t, step s = .next t ∧ t.busy = false ∧ t.response = none ∧ t.offers = rest ∧
      t.engine = Engine.unspecified s.engine.build (s.draws + min size blen) ∧
      (∀ x, x < min size blen → t.buffer.read x = some (Config.freeByte (s.draws + x))) ∧
      (∀ x, min size blen ≤ x → t.buffer.read x = (buffer.getD s.buffer).read x)

/-- R203: with nothing issued the instance holds its lanes and all else but the response already delivered, and what any
later command does is the same whether or not the instance idled before it. That a step with nothing issued is the passing
of idle time, and that it drops the response from the field that showed it, are the model's choices (log entries 8
and 7). -/
def Obligations.IdleIsStable : Prop :=
  (∀ s : State, s.offers = [] → step s = .next { s with response := none }) ∧
  (∀ (s : State) (i : Instr), exec i { s with response := none } = exec i s)

/-- R32, R66: the response of an earlier command has no influence on any step. The field that shows it is the model's
(log entry 7). -/
def Obligations.ResponseIsNotLatched : Prop :=
  ∀ (s : State) (r : Option Response), step { s with response := r } = step s

/-- R50, R179: a busy instance accepts no command. -/
def Obligations.BusyInstanceAcceptsNothing : Prop :=
  ∀ (s : State) (i : Instr), s.busy = true → exec i s = .refused .issuedWhileBusy

/-- R8 (log entry 1): a command of the variant the instance is not is refused by name. -/
def Obligations.OtherVariantIsRefused : Prop :=
  ∀ (s : State) (i : Instr), s.busy = false → i.variant ≠ s.engine.variant → exec i s = .refused .wrongVariant

/-- R179: a step is refused only for an invalid descriptor or for a command issued to a busy instance, where a command that
a reset would follow counts as a command (the model's deduction, log entry 14). -/
def Obligations.StepIsRefusedOnlyForMisuse : Prop :=
  ∀ (s : State) (r : Refusal), step s = .refused r →
    (∃ e d buffer rest, r = .invalidDescriptor e ∧ decodeWords s.engine.variant d = .error e ∧
      (s.offers = .command d buffer :: rest ∨ s.offers = .commandThenReset d buffer :: rest)) ∨
    (r = .issuedWhileBusy ∧ s.busy = true)

/-- R167, R192: a `GEN` before any `INIT` runs on whatever the lanes hold, here those of a HALF instance after reset: the
free values from number `n` on, for whatever `n` (log entry 3). -/
def Obligations.GenBeforeInitRuns : Prop :=
  ∀ (p : HalfParams) (n : Nat), ∃ t l, exec (.genHalf 32 32) (State.resetOf (.half p) n) = .next t ∧
    t.engine = .half p l ∧ t.response = some ⟨.ok, 32⟩ ∧
    l.c = ladd (Config.freeLane (n + 3)) (Lane.lit 7 5 3 1) ∧
    ∀ j, j < 32 → t.buffer.read j = some (Lane.byte (Config.freeLane (n + 2)) j)

/-- R175: instances are independent: whatever the interleaving of their steps, each instance ends where running alone, for
as many steps as it took, ends. -/
def Obligations.InstancesRunAsIfAlone : Prop :=
  ∀ (schedule : List Nat) (sys sys' : List State), runSystem schedule sys = .next sys' →
    sys'.length = sys.length ∧
    ∀ (i : Nat) (s : State), sys[i]? = some s →
      ∃ s', Host.Core.run Sys2Proof.core (schedule.count i) s = .next s' ∧ sys'[i]? = some s'

/-- R175: steps of two different instances commute: either order gives the same system. -/
def Obligations.StepsOfTwoInstancesCommute : Prop :=
  ∀ (sys a b : List State) (j k : Nat), j ≠ k → stepInstance j sys = .next a → stepInstance k sys = .next b →
    ∃ c, stepInstance k a = .next c ∧ stepInstance j b = .next c

/-- R191, R40, R140: a reset during any valid command of either engine, with a buffer it brings or the one before, leaves
the instance idle with no response and its lanes free values not drawn before; an `INIT`, which has no buffer, leaves every
byte as it was (the model's deduction, log entry 4). The numbering of the free values is the model's choice (log
entry 3). -/
def Obligations.ResetDuringAnyCommand : Prop :=
  ∀ (s : State) (d : Descriptor) (buffer : Option Memory) (rest : List HostMove) (i : Instr), s.busy = false →
    s.offers = .commandThenReset d buffer :: rest → decodeWords s.engine.variant d = .ok i →
    ∃ t n, step s = .next t ∧ t.busy = false ∧ t.response = none ∧ t.offers = rest ∧
      t.engine = Engine.unspecified s.engine.build n ∧ s.draws ≤ n ∧ t.draws = n + Build.laneCount s.engine.build ∧
      (∀ a b c e, i = Instr.initOf s.engine.variant a b c e → t.buffer = buffer.getD s.buffer)
end

