-- ==== Sys2Proof/Laws/Lane.lean ====
section
/-! SUPPORT. The two views lemmas every lane fact rests on (20_memory.md R41): a slice of an assembled value is the
piece it was assembled from, and a value is assembled from its own slices; with them, one lemma per lane primitive
that says each word, byte or bit of its result. -/

namespace Sys2Proof

theorem getLsbD_slice {m : Nat} (w k i : Nat) (x : BitVec m) :
    (slice w x k).getLsbD i = (decide (i < w) && x.getLsbD (w * k + i)) := by
  simp [slice]

theorem getLsbD_assemble {w m : Nat} (n : Nat) (f : Nat → BitVec w) (i : Nat) (hm : i < m) :
    (assemble w m n f).getLsbD i = (decide (i < w * n) && (f (i / w)).getLsbD (i % w)) := by
  induction n with
  | zero => simp [assemble]
  | succ n ih =>
    rw [assemble, BitVec.getLsbD_or, ih, BitVec.getLsbD_shiftLeft, BitVec.getLsbD_setWidth]
    by_cases h : i < w * n
    · have : i < w * (n + 1) := by rw [Nat.mul_succ]; omega
      simp [h, this]
    · by_cases h2 : i < w * (n + 1)
      · have hw : 0 < w := by rcases Nat.eq_zero_or_pos w with rfl | h <;> simp_all
        have hd : i / w = n := by
          rw [Nat.div_eq_iff hw, Nat.mul_comm n w]; rw [Nat.mul_succ] at h2; omega
        have hr : i % w = i - w * n := by rw [Nat.mod_def, hd]
        simp only [h, h2, hm, hd, hr, decide_true, decide_false, Bool.false_and, Bool.or_false, Bool.true_and,
          Bool.not_false]
        have : i - w * n < m := by omega
        simp [this]
      · have h3 : w ≤ i - w * n := by rw [Nat.mul_succ] at h2; omega
        simp [h, h2, BitVec.getLsbD_of_ge (f n) (i - w * n) h3]

theorem slice_assemble {w m : Nat} (n : Nat) (f : Nat → BitVec w) (k : Nat) (hk : k < n) (hm : w * n ≤ m) :
    slice w (assemble w m n f) k = f k := by
  apply BitVec.eq_of_getLsbD_eq
  intro i hi
  have h1 : w * (k + 1) ≤ w * n := Nat.mul_le_mul_left w hk
  have h2 : w * k + i < w * n := by rw [Nat.mul_succ] at h1; omega
  have hw : 0 < w := by omega
  rw [getLsbD_slice, getLsbD_assemble n f _ (by omega), Nat.mul_add_div hw, Nat.mul_add_mod,
    Nat.div_eq_of_lt hi, Nat.mod_eq_of_lt hi]
  simp [hi, h2]

theorem assemble_slice {w m n : Nat} (x : BitVec m) (h : w * n = m) : assemble w m n (slice w x) = x := by
  apply BitVec.eq_of_getLsbD_eq
  intro i hi
  have hw : 0 < w := by rcases Nat.eq_zero_or_pos w with rfl | h <;> omega
  rw [getLsbD_assemble n _ i hi, getLsbD_slice, Nat.div_add_mod]
  simp [h, hi, Nat.mod_lt _ hw]

/-- Two values with the same slices are the same value. -/
theorem eq_of_slices {m : Nat} (w n : Nat) (x y : BitVec m) (h : w * n = m)
    (hs : ∀ k, k < n → slice w x k = slice w y k) : x = y := by
  have hw : 0 < w ∨ m = 0 := by rcases Nat.eq_zero_or_pos w with rfl | h' <;> omega
  apply BitVec.eq_of_getLsbD_eq
  intro i hi
  have hw : 0 < w := by omega
  have hk : i / w < n := Nat.div_lt_of_lt_mul (by omega)
  have hb := congrArg (fun z => BitVec.getLsbD z (i % w)) (hs _ hk)
  simpa only [getLsbD_slice, Nat.mod_lt _ hw, decide_true, Bool.true_and, Nat.div_add_mod] using hb

@[simp] theorem length_bytesOf {m : Nat} (n : Nat) (x : BitVec m) : (bytesOf n x).length = n := by
  simp [bytesOf]

theorem getD_bytesOf {m : Nat} (n : Nat) (x : BitVec m) (j : Nat) (h : j < n) : (bytesOf n x).getD j 0 = slice 8 x j := by
  simp [bytesOf, List.getD, h]

/-- A slice of a slice, both aligned, is a slice. -/
theorem slice_slice {m : Nat} (w v r k j : Nat) (x : BitVec m) (hv : v = w * r) (hj : j < r) :
    slice w (slice v x k) j = slice w x (r * k + j) := by
  apply BitVec.eq_of_getLsbD_eq
  intro i hi
  have h1 : w * (j + 1) ≤ w * r := Nat.mul_le_mul_left w hj
  have h2 : w * j + i < v := by rw [Nat.mul_succ] at h1; omega
  simp only [getLsbD_slice, hi, h2, decide_true, Bool.true_and]
  congr 1
  subst hv
  ring

end Sys2Proof

namespace Sys2Proof.Machine

open Sys2Proof

theorem word_ofWords (f : Nat → Word) (k : Nat) (h : k < 4) : Lane.word (Lane.ofWords f) k = f k :=
  slice_assemble 4 f k h (by decide)

theorem byte_ofBytes (f : Nat → Byte) (j : Nat) (h : j < 32) : Lane.byte (Lane.ofBytes f) j = f j :=
  slice_assemble 32 f j h (by decide)

theorem word32_ofWords32 (f : Nat → Word32) (i : Nat) (h : i < 8) : Lane.word32 (Lane.ofWords32 f) i = f i :=
  slice_assemble 8 f i h (by decide)

theorem lane_ext_words {a b : Lane} (h : ∀ k, k < 4 → Lane.word a k = Lane.word b k) : a = b :=
  eq_of_slices 64 4 a b (by decide) h

theorem lane_ext_bytes {a b : Lane} (h : ∀ j, j < 32 → Lane.byte a j = Lane.byte b j) : a = b :=
  eq_of_slices 8 32 a b (by decide) h

theorem lane_ext_words32 {a b : Lane} (h : ∀ i, i < 8 → Lane.word32 a i = Lane.word32 b i) : a = b :=
  eq_of_slices 32 8 a b (by decide) h

/-- `LADD` word by word (R80). -/
theorem word_ladd (a b : Lane) (k : Nat) (h : k < 4) : Lane.word (ladd a b) k = Lane.word a k + Lane.word b k :=
  word_ofWords _ k h

/-- `LSHR` word by word (R81). -/
theorem word_lshr (a : Lane) (n k : Nat) (h : k < 4) : Lane.word (lshr a n) k = Lane.word a k >>> n :=
  word_ofWords _ k h

/-- A rotation byte by byte (R86, R87). -/
theorem byte_rotateBytes (n : Nat) (L : Lane) (j : Nat) (h : j < 32) :
    Lane.byte (rotateBytes n L) j = Lane.byte L ((j + n) % 32) := byte_ofBytes _ j h

/-- `ALIGNR` byte by byte (R84). -/
theorem byte_alignr (lower upper : LaneHalf) (amount : Fin 16) (j : Nat) (h : j < 16) :
    slice 8 (alignr lower upper amount) j = alignSource lower upper (j + amount.val) :=
  slice_assemble 16 _ j h (by decide)

/-- `PERM32` word by word (R85). -/
theorem word32_perm32 (L : Lane) (idx : Vector (Fin 8) 8) (i : Nat) (h : i < 8) :
    Lane.word32 (perm32 L idx) i = Lane.word32 L (idx.toList.getD i 0).val := word32_ofWords32 _ i h

@[simp] theorem length_bytes (L : Lane) : (Lane.bytes L).length = 32 := length_bytesOf 32 L

theorem getD_bytes (L : Lane) (j : Nat) (h : j < 32) : (Lane.bytes L).getD j 0 = Lane.byte L j :=
  getD_bytesOf 32 L j h

/-- Each word of a lane `SEEDLOAD` builds (R143). -/
theorem word_seedLane {nphi ns : Nat} (p : Params nphi ns) (seed : Fin 4 → Word) (i : Fin ns) (k : Nat) (h : k < 4) :
    Lane.word (Params.seedLane p seed i) k = Placement.word p.seedMap[i] p.phi seed k := word_ofWords _ k h

end Sys2Proof.Machine
end

