-- ==== Sys2Proof/Laws/Decode.lean ====
section
/-! SUPPORT. The two facts about descriptors that proofs about the decoder start from (30_encoding.md R60, R61): the
header word is its two fields, and a descriptor is read back from the bytes that hold it. -/

namespace Sys2Proof

/-- A header word with operation code `c` and a zero reserved field is `c` itself. -/
theorem header_eq_iff (w : Word) (c : Byte) :
    (w.extractLsb' 0 8 = c ∧ w.extractLsb' 8 56 = 0) ↔ w = c.setWidth 64 := by
  have hw := w.isLt
  have hc := c.isLt
  constructor
  · rintro ⟨h1, h2⟩
    apply BitVec.eq_of_toNat_eq
    have h1 := congrArg BitVec.toNat h1
    have h2 := congrArg BitVec.toNat h2
    simp [BitVec.extractLsb'_toNat, Nat.shiftRight_eq_div_pow] at h1 h2 ⊢
    omega
  · rintro rfl
    constructor <;> apply BitVec.eq_of_toNat_eq <;>
      simp [BitVec.extractLsb'_toNat, Nat.shiftRight_eq_div_pow] <;> omega

theorem ofBytes_bytes (d : Descriptor) (rest : List Byte) : Descriptor.ofBytes (d.bytes ++ rest) = d := by
  have key : ∀ (n : Nat) (w : Word), (∀ m, m < 8 → (d.bytes ++ rest).getD (8 * n + m) 0 = slice 8 w m) →
      storedWord (d.bytes ++ rest) n = w := by
    intro n w h
    apply eq_of_slices 8 8 _ _ rfl
    intro k hk
    rw [storedWord, slice_assemble 8 _ k hk (by decide), h k hk]
  obtain ⟨w0, w1, w2, w3, w4⟩ := d
  simp only [Descriptor.ofBytes, Descriptor.mk.injEq]
  refine ⟨key 0 w0 ?_, key 1 w1 ?_, key 2 w2 ?_, key 3 w3 ?_, key 4 w4 ?_⟩ <;> intro m hm <;>
    rcases m with _ | _ | _ | _ | _ | _ | _ | _ | m <;> first | rfl | omega

end Sys2Proof
end

