-- ==== Sys2Proof/Laws/Memory.lean ====
section
/-! SUPPORT. What the buffer's operations do: read after write, the frame of a store, the canonical form kept
(20_memory.md R44, R47, R48). -/

namespace Sys2Proof.Machine

open Sys2Proof

theorem read_write_self (m : Memory) (a : Nat) (b : Byte) : (m.write a b).read a = some b := by
  induction m with
  | nil => simp [Memory.write, Memory.read]
  | cons x rest ih =>
    obtain ⟨x, y⟩ := x
    unfold Memory.write
    split
    · simp [Memory.read]
    · split
      · simp [Memory.read]
      · next h => simp [Memory.read, h, ih]

theorem read_write_other (m : Memory) {a x : Nat} (b : Byte) (h : x ≠ a) : (m.write a b).read x = m.read x := by
  induction m with
  | nil => simp [Memory.write, Memory.read, h]
  | cons c rest ih =>
    obtain ⟨k, y⟩ := c
    unfold Memory.write
    split
    · simp [Memory.read, h]
    · split
      · next hk => subst hk; simp [Memory.read, h]
      · simp [Memory.read, ih]

/-- The offsets a write can leave listed. -/
theorem mem_write {m : Memory} {a : Nat} {b : Byte} {c : Host.Cell} (h : c ∈ m.write a b) : c.1 = a ∨ c ∈ m := by
  induction m with
  | nil => simp [Memory.write] at h; simp [h]
  | cons x rest ih =>
    obtain ⟨x, y⟩ := x
    unfold Memory.write at h
    split at h
    · rcases List.mem_cons.1 h with rfl | h
      · simp
      · exact .inr h
    · split at h
      · rcases List.mem_cons.1 h with rfl | h
        · simp
        · exact .inr (List.mem_cons_of_mem _ h)
      · rcases List.mem_cons.1 h with rfl | h
        · exact .inr List.mem_cons_self
        · exact (ih h).imp_right (List.mem_cons_of_mem _)

theorem write_keeps_wf {m : Memory} (a : Nat) (b : Byte) (h : m.wf) : (m.write a b).wf := by
  induction m with
  | nil => simp [Memory.write, Memory.wf]
  | cons x rest ih =>
    obtain ⟨x, y⟩ := x
    obtain ⟨hx, hr⟩ := List.pairwise_cons.1 h
    unfold Memory.write
    split
    · next hlt =>
      refine List.pairwise_cons.2 ⟨fun c hc => ?_, h⟩
      rcases List.mem_cons.1 hc with rfl | hc
      · exact hlt
      · exact Nat.lt_trans hlt (hx c hc)
    · split
      · next _ he => subst he; exact List.pairwise_cons.2 ⟨hx, hr⟩
      · next h1 h2 =>
        refine List.pairwise_cons.2 ⟨fun c hc => ?_, ih hr⟩
        rcases mem_write hc with hc | hc
        · simp only [hc]; omega
        · exact hx c hc

theorem writeBytes_keeps_wf {m : Memory} (off : Nat) (bytes : List Byte) (h : m.wf) :
    (m.writeBytes off bytes).wf := by
  induction bytes generalizing m off with
  | nil => exact h
  | cons b rest ih => exact ih (off + 1) (write_keeps_wf off b h)

/-- A store changes no offset outside the bytes stored. -/
theorem read_writeBytes_outside (m : Memory) {off a : Nat} (bytes : List Byte)
    (h : a < off ∨ off + bytes.length ≤ a) : (m.writeBytes off bytes).read a = m.read a := by
  induction bytes generalizing m off with
  | nil => rfl
  | cons b rest ih =>
    simp only [List.length_cons] at h
    rw [Memory.writeBytes, ih _ (by omega), read_write_other _ _ (by omega)]

/-- Inside the bytes stored, offset `off + j` holds byte `j`. -/
theorem read_writeBytes_inside (m : Memory) (off j : Nat) (bytes : List Byte) (h : j < bytes.length) :
    (m.writeBytes off bytes).read (off + j) = some (bytes.getD j 0) := by
  induction bytes generalizing m off j with
  | nil => simp at h
  | cons b rest ih =>
    cases j with
    | zero =>
      rw [Memory.writeBytes, read_writeBytes_outside _ _ (by omega), Nat.add_zero, read_write_self]
      rfl
    | succ j =>
      have hj : j < rest.length := by simpa using h
      have := ih (m.write off b) (off + 1) j hj
      rw [Memory.writeBytes, show off + (j + 1) = off + 1 + j by omega, this]
      rfl

end Sys2Proof.Machine
end

