-- ==== Sys2Proof/Laws/Gen.lean ====
section
/-! SUPPORT. What the shared operations behind `GEN` and `INIT` do, once for both engines: the validation, the loop
(lanes, bytes written, each byte of the buffer), the warm-up, and an atomic command on the state. -/

namespace Sys2Proof.Machine

open Sys2Proof

/-- The three outcomes of the validation (R161, R162, R164). -/
theorem validate_cases (block size blen : Nat) :
    (size % block ≠ 0 ∧ validate block size blen = .eSize) ∨
    (size % block = 0 ∧ blen ≠ 0 ∧ blen < size ∧ validate block size blen = .eBuffer) ∨
    (size % block = 0 ∧ (blen = 0 ∨ size ≤ blen) ∧ validate block size blen = .ok) := by
  by_cases h1 : size % block = 0
  · by_cases h2 : blen = 0
    · simp [validate, sizeIsBad, bufferIsBad, h1, h2]
    · by_cases h3 : blen < size
      · simp [validate, sizeIsBad, bufferIsBad, h1, h2, h3]
      · simp [validate, sizeIsBad, bufferIsBad, h1, h2, h3]; omega
  · simp [validate, sizeIsBad, h1]

theorem validate_ok {block size blen : Nat} (h1 : size % block = 0) (h2 : blen = 0 ∨ size ≤ blen) :
    validate block size blen = .ok := by
  rcases validate_cases block size blen with ⟨h, _⟩ | ⟨_, h, h', _⟩ | ⟨_, _, h⟩
  · exact absurd h1 h
  · omega
  · exact h

section
variable {L : Type} (R : StepRule L)

@[simp] theorem turn_lanes (blen k : Nat) (g : Progress L) : (R.turn blen k g).lanes = R.step g.lanes := by
  unfold StepRule.turn; split <;> rfl

/-- A turn with no room stores nothing (R105). -/
theorem turn_without_room {blen k : Nat} (g : Progress L) (h : blen < R.block * k + R.block) :
    R.turn blen k g = { g with lanes := R.step g.lanes } := by
  unfold StepRule.turn; rw [if_neg (by omega)]

/-- A turn with room stores the pre-step block (R103, R105). -/
theorem turn_with_room {blen k : Nat} (g : Progress L) (h : R.block * k + R.block ≤ blen) :
    R.turn blen k g = ⟨R.step g.lanes, g.buffer.writeBytes (R.block * k) (R.emit g.lanes), g.written + R.block⟩ := by
  unfold StepRule.turn; rw [if_pos h]

/-- The lanes after `n` turns: the step, `n` times, whatever the buffer (R107, R109, R111). -/
theorem loop_lanes (blen n k : Nat) (g : Progress L) : (R.loop blen n k g).lanes = R.step^[n] g.lanes := by
  induction n generalizing k g with
  | zero => rfl
  | succ n ih => rw [StepRule.loop, ih, turn_lanes, Function.iterate_succ_apply]

/-- Discard mode (R105): nothing is stored. -/
theorem loop_discards (hb : 0 < R.block) (n k : Nat) (g : Progress L) :
    R.loop 0 n k g = { g with lanes := R.step^[n] g.lanes } := by
  induction n generalizing k g with
  | zero => rfl
  | succ n ih =>
    rw [StepRule.loop, turn_without_room R g (by omega), ih]
    simp

theorem loop_written {blen n k : Nat} (g : Progress L) (h : R.block * (k + n) ≤ blen) :
    (R.loop blen n k g).written = g.written + R.block * n := by
  induction n generalizing k g with
  | zero => rfl
  | succ n ih =>
    have hk : R.block * k + R.block ≤ R.block * (k + (n + 1)) := by
      rw [← Nat.mul_succ]; exact Nat.mul_le_mul_left _ (by omega)
    rw [StepRule.loop, turn_with_room R g (by omega), ih _ (by rw [Nat.add_right_comm]; exact h)]
    simp only [Nat.mul_succ]; omega

/-- The loop writes no offset outside the blocks it stores (R44, R49). -/
theorem loop_read_outside (hlen : ∀ l, (R.emit l).length = R.block) {blen n k a : Nat} (g : Progress L)
    (ha : a < R.block * k ∨ R.block * (k + n) ≤ a) : (R.loop blen n k g).buffer.read a = g.buffer.read a := by
  induction n generalizing k g with
  | zero => rfl
  | succ n ih =>
    have h1 : R.block * (k + 1 + n) = R.block * (k + (n + 1)) := by rw [Nat.add_right_comm, Nat.add_assoc]
    have h2 : R.block * (k + 1) ≤ R.block * (k + (n + 1)) := Nat.mul_le_mul_left _ (by omega)
    rw [Nat.mul_succ] at h2
    rw [StepRule.loop, ih _ (by rw [h1, Nat.mul_succ]; omega)]
    by_cases hr : R.block * k + R.block ≤ blen
    · rw [turn_with_room R g hr]; exact read_writeBytes_outside _ _ (by rw [hlen]; omega)
    · rw [turn_without_room R g (by omega)]

/-- Byte `r` of block `q` of the loop is byte `r` of what step `q` of the loop emits (R42, R43, R49, R107). -/
theorem loop_read_inside (hlen : ∀ l, (R.emit l).length = R.block) {blen n k q r : Nat} (g : Progress L)
    (hroom : R.block * (k + n) ≤ blen) (hq : q < n) (hr : r < R.block) :
    (R.loop blen n k g).buffer.read (R.block * (k + q) + r) = some ((R.emit (R.step^[q] g.lanes)).getD r 0) := by
  induction n generalizing k g q with
  | zero => omega
  | succ n ih =>
    have h1 : R.block * (k + 1 + n) = R.block * (k + (n + 1)) := by rw [Nat.add_right_comm, Nat.add_assoc]
    have h2 : R.block * k + R.block ≤ R.block * (k + (n + 1)) := by
      rw [← Nat.mul_succ]; exact Nat.mul_le_mul_left _ (by omega)
    rw [StepRule.loop]
    cases q with
    | zero =>
      rw [loop_read_outside R hlen _ (.inl (by rw [Nat.mul_succ]; simp only [Nat.add_zero]; omega)),
        turn_with_room R g (by omega)]
      exact read_writeBytes_inside _ _ _ _ (by rw [hlen]; exact hr)
    | succ q =>
      have := ih (k := k + 1) (q := q) (R.turn blen k g) (by rw [h1]; exact hroom) (by omega)
      rw [show k + 1 + q = k + (q + 1) by omega, turn_lanes] at this
      rw [this, Function.iterate_succ_apply]

theorem loop_keeps_wf (blen n k : Nat) (g : Progress L) (h : g.buffer.wf) : (R.loop blen n k g).buffer.wf := by
  induction n generalizing k g with
  | zero => exact h
  | succ n ih =>
    refine ih _ _ ?_
    unfold StepRule.turn
    split
    · exact writeBytes_keeps_wf _ _ h
    · exact h

/-- A `GEN` that fails its validation computes nothing (R163). -/
theorem gen_invalid {size blen : Nat} (l : L) (m : Memory) (h : validate R.block size blen ≠ .ok) :
    R.gen size blen l m = ⟨validate R.block size blen, l, m, 0⟩ := by
  unfold StepRule.gen
  split
  · next he => exact absurd he h
  · rfl

/-- A valid `GEN` is its loop (R104, R124). -/
theorem gen_valid {size blen : Nat} (l : L) (m : Memory) (h : validate R.block size blen = .ok) :
    R.gen size blen l m = ⟨.ok, (R.loop blen (size / R.block) 0 ⟨l, m, 0⟩).lanes,
      (R.loop blen (size / R.block) 0 ⟨l, m, 0⟩).buffer, (R.loop blen (size / R.block) 0 ⟨l, m, 0⟩).written⟩ := by
  unfold StepRule.gen; rw [h]

/-- `GEN size, 0` with a whole number of blocks (R104, R105): the lanes advance and nothing is stored. -/
theorem gen_discard (hb : 0 < R.block) {size : Nat} (l : L) (m : Memory) (h : size % R.block = 0) :
    R.gen size 0 l m = ⟨.ok, R.step^[size / R.block] l, m, 0⟩ := by
  rw [gen_valid R l m (validate_ok h (.inl rfl)), loop_discards R hb]

/-- What a command does to the buffer is kept in canonical form. -/
theorem gen_keeps_wf (size blen : Nat) (l : L) {m : Memory} (h : m.wf) : (R.gen size blen l m).buffer.wf := by
  unfold StepRule.gen
  split
  · exact loop_keeps_wf R _ _ _ _ h
  · exact h

/-- The warm-up is `rounds` rounds of the engine's step, `size / block` times, and the reassignment (R144, R147). -/
theorem warmUp_eq (hb : 0 < R.block) {size : Nat} (reassign : L → L) (rounds : Nat) (l : L) (h : size % R.block = 0) :
    R.warmUp size reassign rounds l = (fun x => reassign (R.step^[size / R.block] x))^[rounds] l := by
  induction rounds generalizing l with
  | zero => rfl
  | succ r ih => rw [StepRule.warmUp, ih, gen_discard R hb l [] h, Function.iterate_succ_apply]

end

theorem length_emitFull (l : FullLanes) : (emitFull l).length = 128 := by simp [emitFull]

theorem length_emitHalf (l : HalfLanes) : (emitHalf l).length = 32 := by simp [emitHalf]

/-- A command on an idle FULL instance answers a next state (R50, R171). -/
theorem runOnFull_idle {s : State} {p : FullParams} {l : FullLanes} (f : FullParams → FullLanes → Memory → Done FullLanes)
    (hb : s.busy = false) (he : s.engine = .full p l) :
    runOnFull s f = .next { s with
      engine := .full p (f p l s.buffer).lanes
      busy := false
      buffer := (f p l s.buffer).buffer
      response := some ⟨(f p l s.buffer).status, (f p l s.buffer).written⟩ } := by
  simp only [runOnFull, hb, he]; rfl

/-- A command on an idle HALF instance answers a next state (R50, R171). -/
theorem runOnHalf_idle {s : State} {p : HalfParams} {l : HalfLanes} (f : HalfParams → HalfLanes → Memory → Done HalfLanes)
    (hb : s.busy = false) (he : s.engine = .half p l) :
    runOnHalf s f = .next { s with
      engine := .half p (f p l s.buffer).lanes
      busy := false
      buffer := (f p l s.buffer).buffer
      response := some ⟨(f p l s.buffer).status, (f p l s.buffer).written⟩ } := by
  simp only [runOnHalf, hb, he]; rfl

/-- The only ways a FULL command answers. -/
theorem runOnFull_cases (s : State) (f : FullParams → FullLanes → Memory → Done FullLanes) :
    (s.busy = true ∧ runOnFull s f = .refused .issuedWhileBusy) ∨
    (s.busy = false ∧ ∃ p l, s.engine = .half p l ∧ runOnFull s f = .refused .wrongVariant) ∨
    (s.busy = false ∧ ∃ p l, s.engine = .full p l ∧ runOnFull s f = .next { s with
      engine := .full p (f p l s.buffer).lanes
      busy := false
      buffer := (f p l s.buffer).buffer
      response := some ⟨(f p l s.buffer).status, (f p l s.buffer).written⟩ }) := by
  cases hb : s.busy with
  | true => exact .inl ⟨rfl, by simp [runOnFull, hb]⟩
  | false =>
    cases he : s.engine with
    | full p l => exact .inr (.inr ⟨rfl, p, l, rfl, by rw [runOnFull_idle f hb he]⟩)
    | half p l => exact .inr (.inl ⟨rfl, p, l, rfl, by simp [runOnFull, hb, he]⟩)

/-- The only ways a HALF command answers. -/
theorem runOnHalf_cases (s : State) (f : HalfParams → HalfLanes → Memory → Done HalfLanes) :
    (s.busy = true ∧ runOnHalf s f = .refused .issuedWhileBusy) ∨
    (s.busy = false ∧ ∃ p l, s.engine = .full p l ∧ runOnHalf s f = .refused .wrongVariant) ∨
    (s.busy = false ∧ ∃ p l, s.engine = .half p l ∧ runOnHalf s f = .next { s with
      engine := .half p (f p l s.buffer).lanes
      busy := false
      buffer := (f p l s.buffer).buffer
      response := some ⟨(f p l s.buffer).status, (f p l s.buffer).written⟩ }) := by
  cases hb : s.busy with
  | true => exact .inl ⟨rfl, by simp [runOnHalf, hb]⟩
  | false =>
    cases he : s.engine with
    | half p l => exact .inr (.inr ⟨rfl, p, l, rfl, by rw [runOnHalf_idle f hb he]⟩)
    | full p l => exact .inr (.inl ⟨rfl, p, l, rfl, by simp [runOnHalf, hb, he]⟩)

end Sys2Proof.Machine
end

