-- ==== Sys2Proof/Laws/PerInstr.lean ====
section
/-! SUPPORT. A statement for all instructions, one lemma per constructor: a descriptor has one length, 40 bytes
(30_encoding.md R60), and its first byte is the operation code of the opcode map (R61, R64). -/

namespace Sys2Proof.Laws.FixedLength

open Sys2Proof

/-- The operation code of a command (R64). -/
def opcodeOf : Instr → Byte
  | .initFull _ _ _ _ => 0x01
  | .initHalf _ _ _ _ => 0x01
  | .genFull _ _ => 0x02
  | .genHalf _ _ => 0x02

def Statement (i : Instr) : Prop := (encodeBytes i).length = 40 ∧ (encodeBytes i).getD 0 0 = opcodeOf i

theorem initFull (a b c d : Word) : Statement (.initFull a b c d) :=
  ⟨by simp [encodeBytes, Descriptor.bytes], by rfl⟩

theorem initHalf (a b c d : Word) : Statement (.initHalf a b c d) :=
  ⟨by simp [encodeBytes, Descriptor.bytes], by rfl⟩

theorem genFull (size blen : Nat) : Statement (.genFull size blen) :=
  ⟨by simp [encodeBytes, Descriptor.bytes], by rfl⟩

theorem genHalf (size blen : Nat) : Statement (.genHalf size blen) :=
  ⟨by simp [encodeBytes, Descriptor.bytes], by rfl⟩

end Sys2Proof.Laws.FixedLength
end

