-- ==== Sys2Proof/Laws/State.lean ====
section
/-! SUPPORT. One lemma per field per update of the state, so that no proof unfolds a record update. -/

namespace Sys2Proof.Machine

open Sys2Proof

variable (s : State)

@[simp] theorem accept_engine : s.accept.engine = s.engine := rfl
@[simp] theorem accept_busy : s.accept.busy = true := rfl
@[simp] theorem accept_buffer : s.accept.buffer = s.buffer := rfl
@[simp] theorem accept_response : s.accept.response = none := rfl
@[simp] theorem accept_offers : s.accept.offers = s.offers := rfl
@[simp] theorem accept_draws : s.accept.draws = s.draws := rfl

@[simp] theorem respond_engine (st : Status) (n : Nat) : (s.respond st n).engine = s.engine := rfl
@[simp] theorem respond_busy (st : Status) (n : Nat) : (s.respond st n).busy = false := rfl
@[simp] theorem respond_buffer (st : Status) (n : Nat) : (s.respond st n).buffer = s.buffer := rfl
@[simp] theorem respond_response (st : Status) (n : Nat) : (s.respond st n).response = some ⟨st, n⟩ := rfl
@[simp] theorem respond_offers (st : Status) (n : Nat) : (s.respond st n).offers = s.offers := rfl
@[simp] theorem respond_draws (st : Status) (n : Nat) : (s.respond st n).draws = s.draws := rfl

@[simp] theorem store_engine (e : Engine) (m : Memory) : (s.store e m).engine = e := rfl
@[simp] theorem store_busy (e : Engine) (m : Memory) : (s.store e m).busy = s.busy := rfl
@[simp] theorem store_buffer (e : Engine) (m : Memory) : (s.store e m).buffer = m := rfl
@[simp] theorem store_response (e : Engine) (m : Memory) : (s.store e m).response = s.response := rfl
@[simp] theorem store_offers (e : Engine) (m : Memory) : (s.store e m).offers = s.offers := rfl
@[simp] theorem store_draws (e : Engine) (m : Memory) : (s.store e m).draws = s.draws := rfl

@[simp] theorem idle_engine : s.idle.engine = s.engine := rfl
@[simp] theorem idle_busy : s.idle.busy = s.busy := rfl
@[simp] theorem idle_buffer : s.idle.buffer = s.buffer := rfl
@[simp] theorem idle_response : s.idle.response = none := rfl
@[simp] theorem idle_offers : s.idle.offers = s.offers := rfl
@[simp] theorem idle_draws : s.idle.draws = s.draws := rfl

@[simp] theorem take_engine (r : List HostMove) (b : Option Memory) : (s.take r b).engine = s.engine := rfl
@[simp] theorem take_busy (r : List HostMove) (b : Option Memory) : (s.take r b).busy = s.busy := rfl
@[simp] theorem take_buffer (r : List HostMove) (b : Option Memory) : (s.take r b).buffer = b.getD s.buffer := rfl
@[simp] theorem take_response (r : List HostMove) (b : Option Memory) : (s.take r b).response = s.response := rfl
@[simp] theorem take_offers (r : List HostMove) (b : Option Memory) : (s.take r b).offers = r := rfl
@[simp] theorem take_draws (r : List HostMove) (b : Option Memory) : (s.take r b).draws = s.draws := rfl

@[simp] theorem doReset_engine : s.doReset.engine = Engine.unspecified s.engine.build s.draws := rfl
@[simp] theorem doReset_busy : s.doReset.busy = false := rfl
@[simp] theorem doReset_buffer : s.doReset.buffer = if s.busy then [] else s.buffer := rfl
@[simp] theorem doReset_response : s.doReset.response = none := rfl
@[simp] theorem doReset_offers : s.doReset.offers = s.offers := rfl
@[simp] theorem doReset_draws : s.doReset.draws = s.draws + Build.laneCount s.engine.build := rfl

@[simp] theorem abandon_engine (i : Instr) :
    (s.abandon i).engine = Engine.unspecified s.engine.build (s.draws + abandonedBytes i) := rfl
@[simp] theorem abandon_busy (i : Instr) : (s.abandon i).busy = false := rfl
@[simp] theorem abandon_buffer (i : Instr) :
    (s.abandon i).buffer =
      if s.busy then [] else s.buffer.writeBytes 0 (freeBytes s.draws (abandonedBytes i)) := rfl
@[simp] theorem abandon_response (i : Instr) : (s.abandon i).response = none := rfl
@[simp] theorem abandon_offers (i : Instr) : (s.abandon i).offers = s.offers := rfl
@[simp] theorem abandon_draws (i : Instr) :
    (s.abandon i).draws = s.draws + abandonedBytes i + Build.laneCount s.engine.build := rfl

@[simp] theorem offerFirst_engine (d : Descriptor) : (s.offerFirst d).engine = s.engine := rfl
@[simp] theorem offerFirst_busy (d : Descriptor) : (s.offerFirst d).busy = false := rfl
@[simp] theorem offerFirst_buffer (d : Descriptor) : (s.offerFirst d).buffer = s.buffer := rfl
@[simp] theorem offerFirst_response (d : Descriptor) : (s.offerFirst d).response = s.response := rfl
@[simp] theorem offerFirst_offers (d : Descriptor) :
    (s.offerFirst d).offers = .command d none :: s.offers := rfl
@[simp] theorem offerFirst_draws (d : Descriptor) : (s.offerFirst d).draws = s.draws := rfl

@[simp] theorem build_unspecified (b : Build) (n : Nat) : (Engine.unspecified b n).build = b := by
  cases b <;> rfl

end Sys2Proof.Machine
end

