-- ==== Sys2Proof/Laws/Step.lean ====
section
/-! SUPPORT. What a step can be, said once: idle, a reset, a command, a command abandoned by a reset, or a refusal. -/

namespace Sys2Proof.Machine

open Sys2Proof

theorem step_idle {s : State} (h : s.offers = []) : step s = .next s.idle := by simp [step, fetch, h]

theorem step_reset {s : State} {rest : List HostMove} (h : s.offers = .reset :: rest) :
    step s = .next (s.take rest none).doReset := by simp [step, fetch, h]

theorem step_invalid {s : State} {d : Descriptor} {b : Option Memory} {rest : List HostMove} {r : Reject}
    (h : s.offers = .command d b :: rest) (hd : decodeWords s.engine.variant d = .error r) :
    step s = .refused (.invalidDescriptor r) := by simp [step, fetch, h, hd]

theorem step_abandon {s : State} {d : Descriptor} {b : Option Memory} {rest : List HostMove} {i : Instr}
    (h : s.offers = .commandThenReset d b :: rest) (hb : s.busy = false)
    (hd : decodeWords s.engine.variant d = .ok i) : step s = .next ((s.take rest b).abandon i) := by
  simp [step, fetch, fetchAbandoned, h, hb, hd]

/-- Everything a step that answers a next state can have done. -/
theorem step_cases {s t : State} (h : step s = .next t) :
    (s.offers = [] ∧ t = s.idle) ∨
    (∃ rest, s.offers = .reset :: rest ∧ t = (s.take rest none).doReset) ∨
    (∃ d b rest i, s.offers = .command d b :: rest ∧ decodeWords s.engine.variant d = .ok i ∧
      exec i (s.take rest b) = .next t) ∨
    (∃ d b rest i, s.offers = .commandThenReset d b :: rest ∧ decodeWords s.engine.variant d = .ok i ∧
      s.busy = false ∧ t = (s.take rest b).abandon i) := by
  simp only [step, fetch] at h
  split at h
  · next i s' hf =>
    split at hf <;> try simp at hf
    · next d b rest ho =>
      split at hf <;> simp at hf
      next j hd =>
        obtain ⟨rfl, rfl⟩ := hf
        exact .inr (.inr (.inl ⟨d, b, rest, j, ho, hd, h⟩))
    · next d b rest ho =>
      simp only [fetchAbandoned] at hf
      split at hf <;> try simp at hf
      split at hf <;> simp at hf
  · next o hf =>
    split at hf
    · next ho => simp at hf; subst hf; simp at h; exact .inl ⟨ho, h.symm⟩
    · next rest ho => simp at hf; subst hf; simp at h; exact .inr (.inl ⟨rest, ho, h.symm⟩)
    · next d b rest ho =>
      split at hf <;> simp at hf
      subst hf; simp at h
    · next d b rest ho =>
      simp only [fetchAbandoned] at hf
      split at hf
      · simp at hf; subst hf; simp at h
      · next hb =>
        split at hf
        · next i hd =>
          simp at hf; subst hf; simp at h
          exact .inr (.inr (.inr ⟨d, b, rest, i, ho, hd, by simpa using hb, h.symm⟩))
        · simp at hf; subst hf; simp at h

end Sys2Proof.Machine
end

