-- ==== Sys2Proof/Machine/Assembler.lean ====
section
/-! DEFINITION. The assembler's text of a command and of a program (30_encoding.md R71). It carries no meaning. DESIGN CHOICE (log entry 21). -/

namespace Sys2Proof.Machine

open Sys2Proof

/-- The name of a variant in a `.variant` line (R71). -/
def Variant.name : Variant → String
  | .full => "FULL"
  | .half => "HALF"

/-- `INIT <seed0>, <seed1>, <seed2>, <seed3>` with decimal literals (R71). -/
def initText (a b c d : Word) : String :=
  "INIT " ++ toString a.toNat ++ ", " ++ toString b.toNat ++ ", " ++ toString c.toNat ++ ", " ++ toString d.toNat

/-- `GEN <size>, <blen>` (R71). -/
def genText (size blen : Nat) : String := "GEN " ++ toString size ++ ", " ++ toString blen

/-- One command, one line (R71). The variant is no part of the line (R64). -/
def Instr.text : Instr → String
  | .initFull a b c d => initText a b c d
  | .initHalf a b c d => initText a b c d
  | .genFull size blen => genText size blen
  | .genHalf size blen => genText size blen

/-- The lines of a program for one instance of the given variant (R71). -/
def programText (v : Variant) (commands : List Instr) : List String :=
  (".variant " ++ Variant.name v) :: commands.map Instr.text

end Sys2Proof.Machine
end

