-- ==== Sys2Proof/Tests/Slice0.lean ====
section
/-! SUPPORT. The model's own tests: expected values are the vectors of 95_test_vectors.md (named V-.., P.., S..), the
tables of 30_encoding.md, or hand calculation from a rule; and for every statement with hypotheses a state and operands
that meet all of them (theorems `witness_..`). -/

set_option maxRecDepth 20000

namespace Sys2Proof.Tests

open Sys2Proof Sys2Proof.Machine

/-! ## WellFormed: a well-formed term of each shape, and an ill-formed term for each check -/

theorem test_wellFormed_init : (Instr.initFull 0 0 0 0xFFFFFFFFFFFFFFFF).wellFormed = true ∧
    (Instr.initHalf 1 2 3 4).wellFormed = true := by decide

theorem test_wellFormed_gen_boundary : (Instr.genFull 0xFFFFFFFFFFFFFFFF 0xFFFFFFFFFFFFFFFF).wellFormed = true ∧
    (Instr.genHalf 0 0xFFFFFFFFFFFFFFFF).wellFormed = true := by decide

theorem test_wellFormed_refuses_size : (Instr.genFull 0x10000000000000000 0).wellFormed = false ∧
    (Instr.genHalf 0x10000000000000000 0).wellFormed = false := by decide

theorem test_wellFormed_refuses_blen : (Instr.genFull 0 0x10000000000000000).wellFormed = false ∧
    (Instr.genHalf 0 0x10000000000000000).wellFormed = false := by decide

/-! ## Decode: V-D1, every row and both variants; the bytes of the last line of V-D1 -/

def decoded (v : Variant) (w0 w1 w2 w3 w4 : Word) : Option Instr :=
  match decodeWords v ⟨w0, w1, w2, w3, w4⟩ with
  | .ok i => some i
  | .error _ => none

def rejected (w0 w1 w2 w3 w4 : Word) : Option Reject :=
  match decodeWords .full ⟨w0, w1, w2, w3, w4⟩ with
  | .ok _ => none
  | .error r => some r

theorem test_decode_initFull : decoded .full 0x0000000000000001 0x00000000DEADBEEF 0x0000000000069420
    0x0123456789101112 0x0000000013371337 =
      some (.initFull 0xDEADBEEF 0x69420 0x123456789101112 0x13371337) := by decide

theorem test_decode_initHalf : decoded .half 1 0xFFFFFFFFFFFFFFFF 0xFFFFFFFFFFFFFFFF 0xFFFFFFFFFFFFFFFF
    0xFFFFFFFFFFFFFFFF = some (.initHalf 0xFFFFFFFFFFFFFFFF 0xFFFFFFFFFFFFFFFF 0xFFFFFFFFFFFFFFFF
      0xFFFFFFFFFFFFFFFF) := by decide

theorem test_decode_genFull : decoded .full 2 0x80 0x80 0 0 = some (.genFull 128 128) ∧
    decoded .full 2 0x64 0xC8 0 0 = some (.genFull 100 200) := by decide

theorem test_decode_genHalf : decoded .half 2 0x100 0 0 0 = some (Instr.skip .half 256) ∧
    decoded .half 2 0 0 0 0 = some (Instr.nop .half) := by decide

theorem test_decode_reservedOpcode : rejected 0 0 0 0 0 = some .reservedOpcode ∧
    rejected 3 0 0 0 0 = some .reservedOpcode := by decide

theorem test_decode_reservedHeaderBits : rejected 0x101 0 0 0 0 = some .reservedHeaderBits ∧
    rejected 0x8000000000000001 0 0 0 0 = some .reservedHeaderBits ∧
    rejected 0x102 0x80 0x80 0 0 = some .reservedHeaderBits := by decide

theorem test_decode_reservedWords : rejected 2 0x80 0x80 1 0 = some .reservedW3 ∧
    rejected 2 0x80 0x80 0 1 = some .reservedW4 := by decide

/-- The bytes of `GEN 128, 128` as V-D1 writes them. -/
def gen128Bytes : List Byte :=
  [0x02, 0, 0, 0, 0, 0, 0, 0, 0x80, 0, 0, 0, 0, 0, 0, 0, 0x80, 0, 0, 0, 0, 0, 0, 0] ++
  [0, 0, 0, 0, 0, 0, 0, 0, 0, 0, 0, 0, 0, 0, 0, 0]

def decodedBytes (v : Variant) (bytes : List Byte) : Option (Instr × List Byte) :=
  match decode v bytes with
  | .ok r => some r
  | .error _ => none

theorem test_decode_bytes : decodedBytes .full gen128Bytes = some (.genFull 128 128, []) ∧
    decodedBytes .half (gen128Bytes ++ [0xAA]) = some (.genHalf 128 128, [0xAA]) := by decide

theorem test_decode_truncated : decodedBytes .full (gen128Bytes.take 39) = none := by decide

theorem test_encode_bytes : encodeBytes (.genFull 128 128) = gen128Bytes ∧
    encodeBytes (.genHalf 128 128) = gen128Bytes := by decide

theorem test_decodeTableWord : decodeTableWord 320 1 = some (.initFull 0 0 0 0) ∧
    decodeTableWord 320 2 = some (.genFull 0 0) ∧ decodeTableWord 8 2 = some (.genFull 0 0) ∧
    decodeTableWord 320 3 = none := by decide

theorem test_decodeTableWord_fields :
    decodeTableWord 320 (1 + 5 * 2 ^ 64 + 6 * 2 ^ 128 + 7 * 2 ^ 192 + 8 * 2 ^ 256) = some (.initFull 5 6 7 8) := by
  decide

/-! ## Lanes: V-L1, V-A1, V-R1, V-R2, V-R3 -/

def laneA : Lane := Lane.lit 0xFFFFFFFFFFFFFFFF 1 0x8000000000000000 0
def laneB : Lane := Lane.lit 1 0xFFFFFFFFFFFFFFFF 0x8000000000000000 0
def laneC : Lane := Lane.lit 0xFFFFFFFFFFFFFFFF 1 7 0x8000000000000008

theorem test_ladd : ladd laneA laneB = 0 ∧
    ladd laneA laneC = Lane.lit 0xFFFFFFFFFFFFFFFE 2 0x8000000000000007 0x8000000000000008 := by decide

theorem test_lshr : lshr laneC 1 = Lane.lit 0x7FFFFFFFFFFFFFFF 0 3 0x4000000000000004 ∧
    lshr laneC 3 = Lane.lit 0x1FFFFFFFFFFFFFFF 0 0 0x1000000000000001 := by decide

theorem test_lxor : lxor laneA laneC = Lane.lit 0 0 0x8000000000000007 0x8000000000000008 := by decide

/-- The lane with bytes 00 01 .. 1F, as R42 writes it. -/
def laneIdx : Lane := Lane.lit 0x0706050403020100 0x0F0E0D0C0B0A0908 0x1716151413121110 0x1F1E1D1C1B1A1918

theorem test_lane_bytes : Lane.bytes laneIdx = (List.range 32).map (BitVec.ofNat 8) := by decide

theorem test_lane_halves : Lane.lo laneIdx = 0x0F0E0D0C0B0A09080706050403020100 ∧
    Lane.hi laneIdx = 0x1F1E1D1C1B1A19181716151413121110 ∧ Lane.word32 laneIdx 7 = 0x1F1E1D1C := by decide

theorem test_alignr : alignr (Lane.lo laneIdx) (Lane.hi laneIdx) 15 = 0x1E1D1C1B1A191817161514131211100F ∧
    alignr (Lane.hi laneIdx) (Lane.lo laneIdx) 4 = 0x030201001F1E1D1C1B1A191817161514 ∧
    alignr (Lane.hi laneIdx) (Lane.lo laneIdx) 12 = 0x0B0A090807060504030201001F1E1D1C := by decide

theorem test_rot12 : rot12 laneIdx =
    Lane.lit 0x131211100F0E0D0C 0x1B1A191817161514 0x030201001F1E1D1C 0x0B0A090807060504 := by decide

theorem test_rot20 : rot20 laneIdx =
    Lane.lit 0x1B1A191817161514 0x030201001F1E1D1C 0x0B0A090807060504 0x131211100F0E0D0C := by decide

theorem test_rotations_single_bit : rot12 (Lane.lit 1 0 0 0) = Lane.lit 0 0 0x100000000 0 ∧
    rot20 (Lane.lit 1 0 0 0) = Lane.lit 0 0x100000000 0 0 ∧
    rot12 (Lane.lit 0 0x80000000 0 0) = Lane.lit 0 0 0 0x8000000000000000 ∧
    rot20 (Lane.lit 0 0x80000000 0 0) = Lane.lit 0 0 0x8000000000000000 0 := by decide

theorem test_perm32 :
    perm32 (Lane.lit 0x1111111122222222 0x3333333344444444 0x5555555566666666 0x7777777788888888)
      #v[3, 4, 5, 6, 7, 0, 1, 2] =
    Lane.lit 0x6666666633333333 0x8888888855555555 0x2222222277777777 0x4444444411111111 := by decide

/-! ## Steps: V-F1, V-F3, V-F4, V-H1, V-H2 -/

/-- The start of V-F1. -/
def lanesF1 : FullLanes where
  s0 := laneIdx
  s1 := Lane.lit 0x2726252423222120 0x2F2E2D2C2B2A2928 0x3736353433323130 0x3F3E3D3C3B3A3938
  s2 := Lane.lit 0x4746454443424140 0x4F4E4D4C4B4A4948 0x5756555453525150 0x5F5E5D5C5B5A5958
  s3 := Lane.lit 0x6766656463626160 0x6F6E6D6C6B6A6968 0x7776757473727170 0x7F7E7D7C7B7A7978
  o0 := Lane.lit 0x1111111111111111 0x1111111111111111 0x1111111111111111 0x1111111111111111
  o1 := Lane.lit 0x2222222222222222 0x2222222222222222 0x2222222222222222 0x2222222222222222
  o2 := Lane.lit 0x3333333333333333 0x3333333333333333 0x3333333333333333 0x3333333333333333
  o3 := Lane.lit 0x4444444444444444 0x4444444444444444 0x4444444444444444 0x4444444444444444
  c := 0

theorem test_stepFull_state : (stepFull lanesF1).s1 =
      Lane.lit 0x3816F5D4B3927150 0x411FFEDDBC9B7A59 0x2A08E7C6C5A48362 0x3311F0CFAE8D6C4B ∧
    (stepFull lanesF1).s2 =
      Lane.lit 0x7EFD7BFA78F775F4 0x6AE967E685038200 0x76F573F270EF6DEC 0x83017FFE7CFB79F8 := by decide

theorem test_stepFull_outputs : (stepFull lanesF1).o1 =
      Lane.lit 0x50D153D24ECF4DCC 0x5CDD5FDE52D351D0 0x48C94BCA56D755D4 0x44C547C64ACB49C8 ∧
    (stepFull lanesF1).o2 =
      Lane.lit 0x9EC22586E34DAC0C 0x83E140A02040E301 0x64C4239D1D63C626 0x59FB2689EA4EAD0B ∧
    (stepFull lanesF1).o3 =
      Lane.lit 0x46EB8E2ECB6504A4 0x2BF6993B3998F859 0x5CFD9434B54BEE8E 0xB0108F31D27615B3 := by decide

/-- The start of V-F3, where every addition wraps. -/
def lanesF3 : FullLanes where
  s0 := Lane.lit 0xFFFFFFFFFFFFFFFF 0xFFFFFFFFFFFFFFFF 0xFFFFFFFFFFFFFFFF 0xFFFFFFFFFFFFFFFF
  s1 := Lane.lit 0xFFFFFFFFFFFFFFFF 0xFFFFFFFFFFFFFFFF 0xFFFFFFFFFFFFFFFF 0xFFFFFFFFFFFFFFFF
  s2 := 0
  s3 := Lane.lit 1 2 3 4
  o0 := 0
  o1 := 0
  o2 := 0
  o3 := 0
  c := Lane.lit 0xFFFFFFFFFFFFFFF9 0xFFFFFFFFFFFFFFFB 0xFFFFFFFFFFFFFFFD 0xFFFFFFFFFFFFFFFF

theorem test_stepFull_wraps : (stepFull lanesF3).c = 0 ∧
    (stepFull lanesF3).s3 = Lane.lit 0x20000000FFFFFFFE 0x20000002FFFFFFFF 0xFFFFFFFA00000000 0xFFFFFFFDFFFFFFFF ∧
    (stepFull lanesF3).o3 = Lane.lit 0x1FFFFFFCFFFFFFFE 0x1FFFFFFEFFFFFFFE 0x1FFFFFF8FFFFFFFE 0x1FFFFFFAFFFFFFFE := by
  decide

def lanesZero : FullLanes := ⟨0, 0, 0, 0, 0, 0, 0, 0, 0⟩

/-- V-F4, step 2. -/
theorem test_stepFull_zero_state : (stepFull (stepFull lanesZero)).s3 =
    Lane.lit 0x0000000300000000 0x0000000100000000 0x0000000700000000 0x0000000500000000 := by decide

/-- The start of V-H1. -/
def lanesH1 : HalfLanes where
  s0 := laneIdx
  s1 := Lane.lit 0x2726252423222120 0x2F2E2D2C2B2A2928 0x3736353433323130 0x3F3E3D3C3B3A3938
  o := Lane.lit 0x5555555555555555 0x5555555555555555 0x5555555555555555 0x5555555555555555
  c := Lane.lit 0x100 0x200 0x300 0x400

theorem test_stepHalf : stepHalf lanesH1 =
    { s0 := Lane.lit 0x1E9D1B9A18971594 0x0A89078624A321A0 0x16951392108F0D8C 0x22A11F9E1C9B1998
      s1 := Lane.lit 0x3816F8D4B3927170 0x412002DDBC9B7A99 0x2A08E8C6C5A483C2 0x3311F2CFAE8D6CCB
      o := Lane.lit 0x30B136B22EAF2DAC 0x3CBD3BBE32B331B0 0x28A928AA36B735B4 0x24A525A62AAB29A8
      c := Lane.lit 0x107 0x205 0x303 0x401 } := by decide

/-! ## INIT: V-I3 (seed load), V-I1 and V-I2 (defaults of R141 and R142) -/

theorem test_seedLoadFull : (seedLoadFull Config.fullParams (seedWord 1 2 4 8)).s2 =
      Lane.lit 0xF06AD7AE9717877A 0x85839D6EFFBD7DC6 0x64D325D1C537168A 0xCADD0CCCFDFFBBE1 ∧
    (seedLoadFull Config.fullParams (seedWord 1 2 4 8)).s3 =
      Lane.lit 0x626E33B8D04B4330 0xBBF73C790D94F79D 0x471C4AB3ED3D82A7 0xFEC507705E4AE6E5 := by decide

/-- S1: the second lane of its seed load, which the HALF instance shares. -/
theorem test_seedLoadHalf : (seedLoadHalf Config.halfParams
      (seedWord 0xDEADBEEF 0x69420 0x123456789101112 0x13371337)).s1 =
    Lane.lit 0x2644B5D6DAC26A6D 0x0347045B5BF1827F 0x01886F093B772335 0xC1D64BA40F335E36 := by decide

theorem test_initLanesFull : (initLanesFull Config.fullParams (seedWord 0 0 0 0)).s1 =
    Lane.lit 0xC740DA5CEAE8DB6B 0x07D5C1BFD5D04453 0xEA1B710812F52CE0 0x061DF7CCD6CF8288 := by decide +kernel

theorem test_initLanesHalf : (initLanesHalf Config.halfParams (seedWord 0 0 0 0)).s0 =
    Lane.lit 0x6FEA8457FD4FAB1B 0xFFC7CCE77FA199E7 0x15388520F9795E3F 0xD267E24F2DB997DE := by decide +kernel

/-! ## Commands: P1, P3, V-E1, the free values at reset -/

/-- An idle state with the given lanes and nothing issued. -/
def stateOf (e : Engine) : State := ⟨e, false, [], none, [], 0⟩

def fullS : State := stateOf (.full Config.fullParams lanesF1)
def halfS : State := stateOf (.half Config.halfParams lanesH1)

def responseOf (o : Host.Outcome State Fault Refusal) : Option Response :=
  match o with
  | .next t => t.response
  | .fault _ => none
  | .refused _ => none

def bufferOf (o : Host.Outcome State Fault Refusal) : Memory :=
  match o with
  | .next t => t.buffer
  | .fault _ => []
  | .refused _ => []

/-- What the host reads at an offset after `GEN 128, 128`: V-F1's block, at the ends of its four lanes. -/
theorem test_genFull_block :
    ((bufferOf (exec (.genFull 128 128) fullS)).read 31, (bufferOf (exec (.genFull 128 128) fullS)).read 32,
      (bufferOf (exec (.genFull 128 128) fullS)).read 127, (bufferOf (exec (.genFull 128 128) fullS)).read 128) =
      (some 0x11, some 0x22, some 0x44, none) := by decide +kernel

/-- P3: the first bytes of the second block stored after `INIT 0, 0, 0, 0` on a HALF instance. -/
theorem test_genHalf_second_block :
    (Memory.read (bufferOf (exec (.genHalf 64 64) (stateOf (.half Config.halfParams
      (initLanesHalf Config.halfParams (seedWord 0 0 0 0)))))) 32,
     Memory.read (bufferOf (exec (.genHalf 64 64) (stateOf (.half Config.halfParams
      (initLanesHalf Config.halfParams (seedWord 0 0 0 0)))))) 63) = (some 0xAD, some 0xAD) := by decide +kernel

theorem test_initFull_response : responseOf (exec (.initFull 0 0 0 0) fullS) = some ⟨.ok, 0⟩ := by decide +kernel

theorem test_initHalf_response : responseOf (exec (.initHalf 0 0 0 0) halfS) = some ⟨.ok, 0⟩ := by decide +kernel

theorem test_validate_full : [validate 128 0 200, validate 128 128 127, validate 128 128 128, validate 128 100 0,
    validate 128 32 32, validate 128 256 200, validate 128 300 200, validate 128 (2 ^ 64 - 128) 1,
    validate 128 (2 ^ 64 - 1) 0] =
    [.ok, .eBuffer, .ok, .eSize, .eSize, .eBuffer, .eSize, .eBuffer, .eSize] := by decide

theorem test_validate_half : [validate 32 0 0, validate 32 32 31, validate 32 48 64, validate 32 96 96,
    validate 32 160 0, validate 32 128 64, validate 32 33 1] =
    [.ok, .eBuffer, .eSize, .ok, .ok, .eBuffer, .eSize] := by decide

theorem test_response_words : (Response.rsp0 ⟨.ok, 128⟩, Response.rsp1 ⟨.ok, 128⟩) = (0, 0x80) ∧
    Response.rsp0 ⟨.eSize, 0⟩ = 1 ∧ Response.rsp0 ⟨.eBuffer, 0⟩ = 2 := by decide

theorem test_memory_canonical : Memory.writeBytes [(1, 0xEE), (5, 0xEE)] 0 [0xA0, 0xA1, 0xA2] =
    [(0, 0xA0), (1, 0xA1), (2, 0xA2), (5, 0xEE)] := by decide

theorem test_programText : programText .full [Instr.skip .full 256, .initFull 0 1 2 3] =
    [".variant FULL", "GEN 256, 0", "INIT 0, 1, 2, 3"] := by decide

def isNext (o : Host.Outcome State Fault Refusal) : Bool :=
  match o with
  | .next _ => true
  | .fault _ => false
  | .refused _ => false

/-- Both rows of the table run as the first instruction after reset, on either build. -/
theorem test_step_runs_first_instruction :
    isNext (step (State.reset.withFetchWord 320 1)) = true ∧ isNext (step (State.reset.withFetchWord 320 2)) = true ∧
    isNext (step ((State.resetOf (.half Config.halfParams) 0).withFetchWord 320 1)) = true ∧
    isNext (step ((State.resetOf (.half Config.halfParams) 0).withFetchWord 320 2)) = true := by decide

/-! ## Witnesses: a state and operands that meet all hypotheses of a statement, one for each of its clauses -/

/-- `GEN 128, 128` with a buffer of the host's, then a reset. -/
def genDesc : Descriptor := ⟨2, 128, 128, 0, 0⟩
def issuedS : State := { fullS with offers := [.command genDesc (some [(200, 0xEE)]), .reset] }

theorem witness_StepRunsIssuedCommand :
    issuedS.offers = .command genDesc (some [(200, 0xEE)]) :: [.reset] ∧
    decodeWords issuedS.engine.variant genDesc = .ok (.genFull 128 128) := ⟨rfl, rfl⟩

theorem witness_StepRunsIssuedCommand_bytes :
    issuedS.offers = .command (Descriptor.ofBytes gen128Bytes) (some [(200, 0xEE)]) :: [.reset] ∧
    decode issuedS.engine.variant gen128Bytes = .ok (.genFull 128 128, []) := by
  refine ⟨by decide, ?_⟩
  rfl

theorem witness_InvalidDescriptorIsRefused :
    ({ fullS with offers := [.command ⟨0, 0, 0, 0, 0⟩ none] } : State).busy = false ∧
    ({ halfS with offers := [.commandThenReset ⟨0, 0, 0, 0, 0⟩ none] } : State).busy = false ∧
    decodeWords fullS.engine.variant ⟨0, 0, 0, 0, 0⟩ = .error .reservedOpcode ∧
    decodeWords halfS.engine.variant ⟨0, 0, 0, 0, 0⟩ = .error .reservedOpcode := ⟨rfl, rfl, rfl, rfl⟩

theorem witness_DecoderAcceptsExactlyTwoFormats :
    (⟨1, 0, 0, 0, 0⟩ : Descriptor).w0 = 0x0000000000000001 ∧
    (genDesc.w0 = 0x0000000000000002 ∧ genDesc.w3 = 0 ∧ genDesc.w4 = 0) ∧
    ((⟨2, 0, 0, 0, 1⟩ : Descriptor).w0 ≠ 0x0000000000000001 ∧ ¬((⟨2, 0, 0, 0, 1⟩ : Descriptor).w0 = 0x0000000000000002 ∧
      (⟨2, 0, 0, 0, 1⟩ : Descriptor).w3 = 0 ∧ (⟨2, 0, 0, 0, 1⟩ : Descriptor).w4 = 0)) := by decide

theorem witness_DecodeOfEncodedBytes :
    (Instr.genHalf 0xFFFFFFFFFFFFFFFF 0).wellFormed = true ∧ (Instr.initFull 1 2 3 4).wellFormed = true := by decide

theorem witness_EncodeOfDecodedDescriptor :
    decodeWords .half ⟨1, 5, 6, 7, 8⟩ = .ok (.initHalf 5 6 7 8) ∧
    decodeWords .full ⟨2, 0xFFFFFFFFFFFFFFFF, 0, 0, 0⟩ = .ok (.genFull 0xFFFFFFFFFFFFFFFF 0) := ⟨rfl, rfl⟩

/-- The index ranges of LaneViewsAreLittleEndian, LaddAddsWordByWord, LshrShiftsWordByWord, LxorInEveryView,
AlignrIsTheByteWindow, RotationsAgreeInEveryForm and RotationWordsAndBits at both ends, and both branches of the window. -/
theorem witness_lane_indices : (0 < 4 ∧ 3 < 4) ∧ (0 < 8 ∧ 7 < 8) ∧ (0 < 32 ∧ 31 < 32) ∧ (0 < 256 ∧ 255 < 256) ∧
    (0 + 15 < 16 ∧ ¬(1 + 15 < 16)) := by decide

theorem witness_AlignrIsShiftAndOr : (0 : Fin 16) = 0 ∧ (1 : Fin 16) ≠ 0 ∧ (15 : Fin 16) ≠ 0 := by decide

theorem witness_FullStepLineByLine : fullS.busy = false ∧ fullS.engine = .full Config.fullParams lanesF1 := ⟨rfl, rfl⟩

theorem witness_HalfStepLineByLine : halfS.busy = false ∧ halfS.engine = .half Config.halfParams lanesH1 := ⟨rfl, rfl⟩

/-- Zero steps and two, the buffer just long enough and longer. -/
theorem witness_GenFullStoresTheStream : fullS.busy = false ∧ fullS.engine = .full Config.fullParams lanesF1 ∧
    (256 % 128 = 0 ∧ 256 ≠ 0 ∧ 256 ≤ 256) ∧ (0 % 128 = 0 ∧ 200 ≠ 0 ∧ 0 ≤ 200) := ⟨rfl, rfl, by decide, by decide⟩

theorem witness_GenHalfStoresTheStream : halfS.busy = false ∧ halfS.engine = .half Config.halfParams lanesH1 ∧
    (96 % 32 = 0 ∧ 96 ≠ 0 ∧ 96 ≤ 96) ∧ (32 % 32 = 0 ∧ 200 ≠ 0 ∧ 32 ≤ 200) := ⟨rfl, rfl, by decide, by decide⟩

/-- One operand pair for each clause: a bad size, a short buffer, no buffer, a buffer just long enough. -/
theorem witness_GenFullContract : fullS.busy = false ∧ fullS.engine = .full Config.fullParams lanesF1 ∧
    127 % 128 ≠ 0 ∧ (128 % 128 = 0 ∧ 127 ≠ 0 ∧ 127 < 128) ∧ 128 % 128 = 0 ∧ (128 ≠ 0 ∧ 128 ≤ 128) :=
  ⟨rfl, rfl, by decide, by decide, by decide, by decide⟩

theorem witness_GenHalfContract : halfS.busy = false ∧ halfS.engine = .half Config.halfParams lanesH1 ∧
    33 % 32 ≠ 0 ∧ (32 % 32 = 0 ∧ 31 ≠ 0 ∧ 31 < 32) ∧ 32 % 32 = 0 ∧ (32 ≠ 0 ∧ 32 ≤ 32) :=
  ⟨rfl, rfl, by decide, by decide, by decide, by decide⟩

/-- For both variants, a command with a size error and one without; a buffer error and none. -/
theorem witness_SizeErrorExactly : fullS.busy = false ∧ (Instr.genFull 100 200).variant = fullS.engine.variant ∧
    (Instr.genFull 128 127).variant = fullS.engine.variant ∧ halfS.busy = false ∧
    (Instr.genHalf 48 64).variant = halfS.engine.variant ∧ (Instr.initHalf 0 0 0 0).variant = halfS.engine.variant :=
  ⟨rfl, rfl, rfl, rfl, rfl, rfl⟩

/-- For both variants, a buffer error alone and both errors at once. -/
theorem witness_BufferErrorExactly : fullS.busy = false ∧ (Instr.genFull 256 200).variant = fullS.engine.variant ∧
    (Instr.genFull 300 200).variant = fullS.engine.variant ∧ (200 ≠ 0 ∧ 200 < 300 ∧ 300 % 128 ≠ 0) ∧
    halfS.busy = false ∧ (Instr.genHalf 32 31).variant = halfS.engine.variant ∧
    (Instr.genHalf 33 1).variant = halfS.engine.variant ∧ (1 ≠ 0 ∧ 1 < 33 ∧ 33 % 32 ≠ 0) :=
  ⟨rfl, rfl, rfl, by decide, rfl, rfl, rfl, by decide⟩

theorem witness_CommandsNeverFail : halfS.busy = false ∧ (Instr.genHalf 33 1).variant = halfS.engine.variant ∧
    (Instr.initHalf 0 0 0 0).variant = halfS.engine.variant ∧ fullS.busy = false ∧
    (Instr.initFull 0 0 0 0).variant = fullS.engine.variant := ⟨rfl, rfl, rfl, rfl, rfl⟩

theorem witness_GenOfSizeZeroChangesNothing : fullS.busy = false ∧ fullS.engine.variant = .full ∧
    halfS.busy = false ∧ halfS.engine.variant = .half := ⟨rfl, rfl, rfl, rfl⟩

/-- One operand pair for each of the four clauses, on either engine. -/
theorem witness_ResponseWordsOfGen : fullS.busy = false ∧ fullS.engine = .full Config.fullParams lanesF1 ∧
    (300 < 2 ^ 64 ∧ 300 % 128 ≠ 0) ∧ (256 < 2 ^ 64 ∧ 256 % 128 = 0 ∧ 255 ≠ 0 ∧ 255 < 256) ∧
    (128 % 128 = 0 ∧ 128 ≠ 0 ∧ 128 ≤ 128) ∧ (2 ^ 64 - 128 < 2 ^ 64 ∧ (2 ^ 64 - 128) % 128 = 0) ∧
    halfS.busy = false ∧ halfS.engine = .half Config.halfParams lanesH1 ∧ 48 % 32 ≠ 0 ∧
    (96 % 32 = 0 ∧ 95 ≠ 0 ∧ 95 < 96) ∧ (96 ≠ 0 ∧ 96 ≤ 96) ∧ 160 % 32 = 0 :=
  ⟨rfl, rfl, by decide, by decide, by decide, by decide, rfl, rfl, by decide, by decide, by decide, by decide⟩

theorem witness_CounterAdvancesPerStep : fullS.busy = false ∧ fullS.engine = .full Config.fullParams lanesF1 ∧
    (256 % 128 = 0 ∧ 256 ≤ 256) ∧ halfS.busy = false ∧ halfS.engine = .half Config.halfParams lanesH1 ∧
    160 % 32 = 0 := ⟨rfl, rfl, by decide, rfl, rfl, by decide⟩

/-- A zero counter on either engine, the first and the last counter word, the largest n of each. -/
theorem witness_CounterRisesUntilItWraps : lanesZero.c = 0 ∧ (⟨1, 2, 3, 0⟩ : HalfLanes).c = 0 ∧
    (0, 7) ∈ [(0, 7), (1, 5), (2, 3), (3, 1)] ∧ (3, 1) ∈ [(0, 7), (1, 5), (2, 3), (3, 1)] ∧
    2635249153387078802 ≤ (2 ^ 64 - 1) / 7 ∧ 2 ^ 64 - 1 ≤ (2 ^ 64 - 1) / 1 :=
  ⟨rfl, rfl, by decide, by decide, by decide, by decide⟩

theorem witness_EvenLanesEvolveAlone : lanesZero.s0 = 0 ∧ lanesF3.s2 = 0 ∧ (⟨0, 1, 2, 3⟩ : HalfLanes).s0 = 0 :=
  ⟨rfl, rfl, rfl⟩

theorem witness_PendingOutputsOnlyEmitted : fullS.busy = false ∧ fullS.engine = .full Config.fullParams lanesF1 ∧
    (128 ≤ 128 ∧ 128 % 128 = 0 ∧ 128 ≤ 128) ∧ halfS.busy = false ∧
    halfS.engine = .half Config.halfParams lanesH1 ∧ (32 ≤ 96 ∧ 96 % 32 = 0 ∧ 96 ≤ 100) :=
  ⟨rfl, rfl, by decide, rfl, rfl, by decide⟩

/-- With three buffers, each just long enough. -/
theorem witness_AdvanceEquivalenceFull : fullS.busy = false ∧ fullS.engine = .full Config.fullParams lanesF1 ∧
    128 % 128 = 0 ∧ 256 % 128 = 0 ∧ (256 ≠ 0 ∧ 256 ≤ 256) ∧ (384 ≠ 0 ∧ 128 + 256 ≤ 384) :=
  ⟨rfl, rfl, by decide, by decide, by decide, by decide⟩

theorem witness_AdvanceEquivalenceHalf : halfS.busy = false ∧ halfS.engine = .half Config.halfParams lanesH1 ∧
    32 % 32 = 0 ∧ 96 % 32 = 0 ∧ (96 ≠ 0 ∧ 96 ≤ 96) ∧ (128 ≠ 0 ∧ 32 + 96 ≤ 128) :=
  ⟨rfl, rfl, by decide, by decide, by decide, by decide⟩

theorem witness_NullBufferEquivalence : fullS.busy = false ∧ fullS.engine.variant = .full ∧ 128 ≤ 128 ∧
    halfS.busy = false ∧ halfS.engine.variant = .half := ⟨rfl, rfl, by decide, rfl, rfl⟩

/-- A next state with bytes stored. -/
theorem witness_BufferContentsAreNeverRead :
    isNext (exec (.genHalf 32 32) halfS) = true ∧
    responseOf (exec (.genHalf 32 32) halfS) = some ⟨.ok, 32⟩ := by decide +kernel

theorem witness_SeedLoadFullWords (l : FullLanes) : [l.s0, l.s1, l.s2, l.s3][(0 : Fin 4).val]? = some l.s0 ∧
    [l.s0, l.s1, l.s2, l.s3][(3 : Fin 4).val]? = some l.s3 ∧ Config.seedMapFull[(0 : Fin 4)].seeded = .even ∧
    (⟨0, 1, 2, 3, .odd, 0, 1⟩ : Placement 16).seeded = .odd := ⟨rfl, rfl, rfl, rfl⟩

theorem witness_SeedLoadHalfWords (l : HalfLanes) : [l.s0, l.s1][(0 : Fin 2).val]? = some l.s0 ∧
    [l.s0, l.s1][(1 : Fin 2).val]? = some l.s1 ∧ Config.seedMapHalf[(1 : Fin 2)].seeded = .even := ⟨rfl, rfl, rfl⟩

theorem witness_InitFullResult : fullS.busy = false ∧ fullS.engine = .full Config.fullParams lanesF1 := ⟨rfl, rfl⟩

theorem witness_InitHalfResult : halfS.busy = false ∧ halfS.engine = .half Config.halfParams lanesH1 := ⟨rfl, rfl⟩

/-- Two states of one build with different lanes. -/
theorem witness_InitForgetsThePreviousState : fullS.busy = false ∧
    (stateOf (.full Config.fullParams lanesF3)).busy = false ∧
    fullS.engine.build = (stateOf (.full Config.fullParams lanesF3)).engine.build ∧ fullS.engine.variant = .full :=
  ⟨rfl, rfl, rfl, rfl⟩

theorem witness_FirstBlockAfterInit : fullS.busy = false ∧ fullS.engine = .full Config.fullParams lanesF1 ∧
    halfS.busy = false ∧ halfS.engine = .half Config.halfParams lanesH1 := ⟨rfl, rfl, rfl, rfl⟩

theorem witness_SkipThenGenerateReadsTheStream : fullS.busy = false ∧
    fullS.engine = .full Config.fullParams lanesF1 ∧ (256 % 128 = 0 ∧ 128 % 128 = 0 ∧ 128 ≠ 0 ∧ 128 ≤ 128) ∧
    halfS.busy = false ∧ halfS.engine = .half Config.halfParams lanesH1 ∧
    (96 % 32 = 0 ∧ 64 % 32 = 0 ∧ 64 ≠ 0 ∧ 64 ≤ 64) := ⟨rfl, rfl, by decide, rfl, rfl, by decide⟩

/-- The default builds, as the two clauses on the build need them. -/
theorem witness_ResetLeavesLanesFree : Config.resetBuild = .full Config.fullParams ∧
    (Build.half Config.halfParams).variant = .half := ⟨rfl, rfl⟩

/-- A reachable state with something issued in which the invariant holds and a step answers a next state. -/
theorem witness_StepKeepsInvariant :
    State.Inv { halfS with offers := [.command ⟨2, 32, 32, 0, 0⟩ (some [(40, 0xEE)])] } ∧
    isNext (step { halfS with offers := [.command ⟨2, 32, 32, 0, 0⟩ (some [(40, 0xEE)])] }) = true := by
  refine ⟨⟨rfl, List.Pairwise.nil, nofun, ?_⟩, by decide +kernel⟩
  intro m hm
  rw [List.mem_singleton] at hm
  subst hm
  intro b hb
  cases hb
  exact List.pairwise_singleton _ _

theorem witness_StepKeepsTheBuild : isNext (step { fullS with offers := [.reset] }) = true ∧
    isNext (step halfS) = true := by decide

theorem witness_ResetBetweenCommands : ({ fullS with offers := [.reset] } : State).busy = false ∧
    ({ fullS with offers := [.reset] } : State).offers = .reset :: [] := ⟨rfl, rfl⟩

/-- A `GEN` cut short with a buffer it brings that is longer than `size`, and one with the buffer before and `blen` too
short. -/
def cutFullS : State := { fullS with offers := [.commandThenReset ⟨2, 128, 200, 0, 0⟩ (some [(3, 0xEE)])] }
def cutHalfS : State := { halfS with offers := [.commandThenReset ⟨2, 128, 64, 0, 0⟩ none, .reset] }

theorem witness_ResetDuringGen : cutFullS.busy = false ∧
    cutFullS.offers = .commandThenReset ⟨2, 128, 200, 0, 0⟩ (some [(3, 0xEE)]) :: [] ∧
    decodeWords cutFullS.engine.variant ⟨2, 128, 200, 0, 0⟩ = .ok (Instr.genOf cutFullS.engine.variant 128 200) ∧
    (127 < min 128 200 ∧ min 128 200 ≤ 128) ∧ cutHalfS.busy = false ∧
    cutHalfS.offers = .commandThenReset ⟨2, 128, 64, 0, 0⟩ none :: [.reset] ∧
    decodeWords cutHalfS.engine.variant ⟨2, 128, 64, 0, 0⟩ = .ok (Instr.genOf cutHalfS.engine.variant 128 64) ∧
    (63 < min 128 64 ∧ min 128 64 ≤ 64) := ⟨rfl, rfl, rfl, by decide, rfl, rfl, rfl, by decide⟩

/-- An `INIT` cut short, on either engine. -/
theorem witness_ResetDuringAnyCommand :
    ({ fullS with offers := [.commandThenReset ⟨1, 5, 6, 7, 8⟩ (some [(3, 0xEE)])] } : State).busy = false ∧
    decodeWords fullS.engine.variant ⟨1, 5, 6, 7, 8⟩ = .ok (Instr.initOf fullS.engine.variant 5 6 7 8) ∧
    ({ halfS with offers := [.commandThenReset ⟨1, 5, 6, 7, 8⟩ none] } : State).busy = false ∧
    decodeWords halfS.engine.variant ⟨1, 5, 6, 7, 8⟩ = .ok (Instr.initOf halfS.engine.variant 5 6 7 8) :=
  ⟨rfl, rfl, rfl, rfl⟩

theorem witness_IdleIsStable : fullS.offers = [] ∧ halfS.offers = [] := ⟨rfl, rfl⟩

theorem witness_BusyInstanceAcceptsNothing : ({ fullS with busy := true } : State).busy = true ∧
    ({ halfS with busy := true } : State).busy = true := ⟨rfl, rfl⟩

theorem witness_OtherVariantIsRefused : fullS.busy = false ∧
    (Instr.initHalf 0 0 0 0).variant ≠ fullS.engine.variant ∧ halfS.busy = false ∧
    (Instr.genFull 0 0).variant ≠ halfS.engine.variant := ⟨rfl, by decide, rfl, by decide⟩

/-- One refused step for each of the two reasons. -/
theorem witness_StepIsRefusedOnlyForMisuse :
    step { fullS with offers := [.command ⟨3, 0, 0, 0, 0⟩ none] } = .refused (.invalidDescriptor .reservedOpcode) ∧
    step { fullS with busy := true, offers := [.command ⟨1, 0, 0, 0, 0⟩ none] } = .refused .issuedWhileBusy :=
  ⟨rfl, rfl⟩

/-- Two instances of different variants, an interleaving of their steps and one of no instance. -/
theorem witness_InstancesRunAsIfAlone :
    runSystem [0, 1, 1, 7, 0] [fullS, halfS] = .next [fullS, halfS] ∧ [fullS, halfS][1]? = some halfS := ⟨rfl, rfl⟩

theorem witness_StepsOfTwoInstancesCommute : 0 ≠ 1 ∧ stepInstance 0 [fullS, halfS] = .next [fullS, halfS] ∧
    stepInstance 1 [fullS, halfS] = .next [fullS, halfS] := ⟨by decide, rfl, rfl⟩

end Sys2Proof.Tests
end

section
/-! SUPPORT. What a command can answer, said once for all four commands, and with it the statements of 00_scope.md
section 3: no step changes the build (R8, R10), and a command of the other variant is refused (R8). -/

namespace Sys2Proof.Machine

open Sys2Proof

@[simp] theorem build_full (p : FullParams) (l : FullLanes) : (Engine.full p l).build = .full p := rfl
@[simp] theorem build_half (p : HalfParams) (l : HalfLanes) : (Engine.half p l).build = .half p := rfl
@[simp] theorem variant_full (p : FullParams) (l : FullLanes) : (Engine.full p l).variant = .full := rfl
@[simp] theorem variant_half (p : HalfParams) (l : HalfLanes) : (Engine.half p l).variant = .half := rfl

/-- What a command of variant `v`, issued in state `s`, can answer (R8, R50, R171). An answer replaces the lanes of the
engine but not its build, touches neither what the host has issued nor the free values, and ends idle. -/
inductive CommandOutcome (v : Variant) (s : State) : Host.Outcome State Fault Refusal → Prop where
  | busy (hb : s.busy = true) : CommandOutcome v s (.refused .issuedWhileBusy)
  | otherVariant (hb : s.busy = false) (hv : v ≠ s.engine.variant) : CommandOutcome v s (.refused .wrongVariant)
  | answered (hb : s.busy = false) (hv : v = s.engine.variant) (e : Engine) (m : Memory) (r : Response)
      (he : e.build = s.engine.build) :
      CommandOutcome v s (.next { s with engine := e, busy := false, buffer := m, response := some r })

theorem runOnFull_outcome (s : State) (f : FullParams → FullLanes → Memory → Done FullLanes) :
    CommandOutcome .full s (runOnFull s f) := by
  obtain ⟨hb, h⟩ | ⟨hb, p, l, he, h⟩ | ⟨hb, p, l, he, h⟩ := runOnFull_cases s f <;> rw [h]
  · exact .busy hb
  · exact .otherVariant hb (by simp [he])
  · exact .answered hb (by simp [he]) _ _ _ (by simp [he])

theorem runOnHalf_outcome (s : State) (f : HalfParams → HalfLanes → Memory → Done HalfLanes) :
    CommandOutcome .half s (runOnHalf s f) := by
  obtain ⟨hb, h⟩ | ⟨hb, p, l, he, h⟩ | ⟨hb, p, l, he, h⟩ := runOnHalf_cases s f <;> rw [h]
  · exact .busy hb
  · exact .otherVariant hb (by simp [he])
  · exact .answered hb (by simp [he]) _ _ _ (by simp [he])

theorem exec_outcome (i : Instr) (s : State) : CommandOutcome i.variant s (exec i s) := by
  cases i with
  | initFull a b c d => rw [exec, execInitFull]; exact runOnFull_outcome s _
  | initHalf a b c d => rw [exec, execInitHalf]; exact runOnHalf_outcome s _
  | genFull size blen => rw [exec, execGenFull]; exact runOnFull_outcome s _
  | genHalf size blen => rw [exec, execGenHalf]; exact runOnHalf_outcome s _

theorem exec_keeps_build {i : Instr} {s t : State} (h : exec i s = .next t) : t.engine.build = s.engine.build := by
  have ho := exec_outcome i s
  rw [h] at ho
  cases ho with
  | answered hb hv e m r he => exact he

/-- Settles O46: a command replaces lanes only, and a reset draws new lanes for the build it finds. -/
theorem stepKeepsTheBuild : Obligations.StepKeepsTheBuild := by
  intro s t h
  obtain ⟨-, rfl⟩ | ⟨rest, -, rfl⟩ | ⟨d, b, rest, i, -, -, hx⟩ | ⟨d, b, rest, i, -, -, -, rfl⟩ := step_cases h
  · rw [idle_engine]
  · rw [doReset_engine, build_unspecified, take_engine]
  · rw [exec_keeps_build hx, take_engine]
  · rw [abandon_engine, build_unspecified, take_engine]

/-- Settles O52: the other two outcomes of a command need a busy state or the engine's own variant. -/
theorem otherVariantIsRefused : Obligations.OtherVariantIsRefused := by
  intro s i hidle hother
  have ho := exec_outcome i s
  generalize exec i s = o at ho ⊢
  cases ho with
  | busy hb => simp [hidle] at hb
  | otherVariant => rfl
  | answered hb hv => exact absurd hv hother

end Sys2Proof.Machine
end

section
/-! SUPPORT. Facts about the decoder, the step and `GEN` that the statements of 10_state.md start from: what a decoded
descriptor can be (30_encoding.md R61 to R64, R75), the step that runs a command, and the response of a `GEN` (R66). -/

namespace Sys2Proof

theorem fitsSizeWord_iff {n : Nat} : fitsSizeWord n = true ↔ n < 2 ^ 64 := decide_eq_true_iff

/-- The only two kinds of descriptor that decode, and what they decode to (R61 to R64, R68). -/
theorem decodeWords_ok {v : Variant} {d : Descriptor} {i : Instr} (h : decodeWords v d = .ok i) :
    (d.opc = 0x01 ∧ d.rz0 = 0 ∧ i = Instr.initOf v d.w1 d.w2 d.w3 d.w4) ∨
    (d.opc = 0x02 ∧ d.rz0 = 0 ∧ d.w3 = 0 ∧ d.w4 = 0 ∧ i = Instr.genOf v d.w1.toNat d.w2.toNat) := by
  unfold decodeWords at h
  split at h
  · next hopc =>
    split at h
    · next hrz => cases h; exact .inl ⟨hopc, hrz, rfl⟩
    · cases h
  · split at h
    · next hopc =>
      split at h
      · next hrz =>
        unfold decodeGen at h
        split at h
        · cases h
        · next h3 =>
          split at h
          · cases h
          · next h4 => cases h; exact .inr ⟨hopc, hrz, not_not.1 h3, not_not.1 h4, rfl⟩
      · cases h
    · cases h

theorem decodeWords_wellFormed {v : Variant} {d : Descriptor} {i : Instr} (h : decodeWords v d = .ok i) :
    i.wellFormed = true := by
  have hsize : fitsSizeWord d.w1.toNat = true := fitsSizeWord_iff.2 d.w1.isLt
  have hblen : fitsSizeWord d.w2.toNat = true := fitsSizeWord_iff.2 d.w2.isLt
  obtain ⟨-, -, rfl⟩ | ⟨-, -, -, -, rfl⟩ := decodeWords_ok h
  · cases v <;> rfl
  · cases v <;> simp [Instr.genOf, Instr.wellFormed, hsize, hblen]

/-- Bytes decode as the descriptor their first 40 bytes hold (R60, R75). -/
theorem decode_ok {v : Variant} {bytes tail : List Byte} {i : Instr} (h : decode v bytes = .ok (i, tail)) :
    40 ≤ bytes.length ∧ decodeWords v (Descriptor.ofBytes bytes) = .ok i ∧ tail = bytes.drop 40 := by
  unfold decode at h
  split at h
  · cases h
  · next hlen =>
    cases hd : decodeWords v (Descriptor.ofBytes bytes) with
    | error r => rw [hd] at h; cases h
    | ok j => rw [hd] at h; cases h; exact ⟨not_lt.1 hlen, rfl, rfl⟩

end Sys2Proof

namespace Sys2Proof.Machine

open Sys2Proof

theorem step_command {s : State} {d : Descriptor} {b : Option Memory} {rest : List HostMove} {i : Instr}
    (h : s.offers = .command d b :: rest) (hd : decodeWords s.engine.variant d = .ok i) :
    step s = exec i (s.take rest b) := by simp [step, fetch, h, hd]

section
variable {L : Type} (R : StepRule L)

/-- `GEN` stores at most the bytes asked for (R107). -/
theorem gen_written_le (hb : 0 < R.block) (size blen : Nat) (l : L) (m : Memory) :
    (R.gen size blen l m).written ≤ size := by
  by_cases hv : validate R.block size blen = .ok
  · obtain ⟨-, h⟩ | ⟨-, -, -, h⟩ | ⟨hsize, rfl | hroom, -⟩ := validate_cases R.block size blen
    · simp [h] at hv
    · simp [h] at hv
    · simp [gen_discard R hb l m hsize]
    · have hblocks : R.block * (size / R.block) = size := Nat.mul_div_cancel' (Nat.dvd_of_mod_eq_zero hsize)
      rw [gen_valid R l m hv, loop_written R _ (by rw [Nat.zero_add, hblocks]; exact hroom), hblocks, Nat.zero_add]
  · simp [gen_invalid R l m hv]

/-- A failed `GEN` reports no bytes (R66, R163). -/
theorem gen_written_of_failed {size blen : Nat} (l : L) (m : Memory) (h : (R.gen size blen l m).status ≠ .ok) :
    (R.gen size blen l m).written = 0 := by
  by_cases hv : validate R.block size blen = .ok
  · simp [gen_valid R l m hv] at h
  · rw [gen_invalid R l m hv]

end

end Sys2Proof.Machine
end

section
/-! SUPPORT. The invariant between steps (10_state.md section 4, R33; 20_memory.md R48, R50; 30_encoding.md R66): one
lemma per operation on the state, one for all commands, and with them every step. -/

namespace Sys2Proof.Machine

open Sys2Proof

/-- What a command may leave: a buffer in canonical form and a response of R66. -/
structure Done.Allowed {L : Type} (d : Done L) : Prop where
  buffer : Memory.wf d.buffer
  response : Response.wf ⟨d.status, d.written⟩

theorem gen_allowed {L : Type} (R : StepRule L) (hb : 0 < R.block) {size : Nat} (hsize : size < 2 ^ 64) (blen : Nat)
    (l : L) {m : Memory} (hm : m.wf) : (R.gen size blen l m).Allowed where
  buffer := gen_keeps_wf R size blen l hm
  response := ⟨(gen_written_le R hb size blen l m).trans_lt hsize, gen_written_of_failed R l m⟩

/-- What `INIT` leaves: the buffer it found, and `OK`, 0 (R140). -/
theorem init_allowed {L : Type} (l : L) {m : Memory} (hm : m.wf) : (⟨.ok, l, m, 0⟩ : Done L).Allowed where
  buffer := hm
  response := ⟨Nat.two_pow_pos 64, fun _ => rfl⟩

section
variable {s t : State}

theorem answer_inv {L : Type} {d : Done L} (e : Engine) (hs : s.Inv) (hd : d.Allowed) :
    State.Inv { s with engine := e, busy := false, buffer := d.buffer, response := some ⟨d.status, d.written⟩ } where
  idle := rfl
  buffer := hd.buffer
  response := by rintro r ⟨rfl⟩; exact hd.response
  offers := hs.offers

theorem runOnFull_keeps_inv {f : FullParams → FullLanes → Memory → Done FullLanes} (hs : s.Inv)
    (hf : ∀ p l m, Memory.wf m → (f p l m).Allowed) (h : runOnFull s f = .next t) : t.Inv := by
  obtain ⟨-, hr⟩ | ⟨-, p, l, -, hr⟩ | ⟨-, p, l, -, hr⟩ := runOnFull_cases s f <;> rw [hr] at h <;> cases h
  exact answer_inv _ hs (hf p l _ hs.buffer)

theorem runOnHalf_keeps_inv {f : HalfParams → HalfLanes → Memory → Done HalfLanes} (hs : s.Inv)
    (hf : ∀ p l m, Memory.wf m → (f p l m).Allowed) (h : runOnHalf s f = .next t) : t.Inv := by
  obtain ⟨-, hr⟩ | ⟨-, p, l, -, hr⟩ | ⟨-, p, l, -, hr⟩ := runOnHalf_cases s f <;> rw [hr] at h <;> cases h
  exact answer_inv _ hs (hf p l _ hs.buffer)

/-- A well-formed command keeps the invariant: its `size` bounds the bytes it reports. -/
theorem exec_keeps_inv {i : Instr} (hi : i.wellFormed = true) (hs : s.Inv) (h : exec i s = .next t) : t.Inv := by
  cases i with
  | initFull a b c d => exact runOnFull_keeps_inv hs (fun p l m hm => init_allowed _ hm) h
  | initHalf a b c d => exact runOnHalf_keeps_inv hs (fun p l m hm => init_allowed _ hm) h
  | genFull size blen =>
    have hsize : size < 2 ^ 64 := fitsSizeWord_iff.1 (Bool.and_eq_true_iff.1 hi).1
    exact runOnFull_keeps_inv hs (fun p l m hm => gen_allowed fullRule (by decide) hsize blen l hm) h
  | genHalf size blen =>
    have hsize : size < 2 ^ 64 := fitsSizeWord_iff.1 (Bool.and_eq_true_iff.1 hi).1
    exact runOnHalf_keeps_inv hs (fun p l m hm => gen_allowed halfRule (by decide) hsize blen l hm) h

theorem idle_inv (hs : s.Inv) : s.idle.Inv := ⟨hs.idle, hs.buffer, nofun, hs.offers⟩

theorem take_inv {rest : List HostMove} {b : Option Memory} (hs : s.Inv) (hrest : ∀ m ∈ rest, HostMove.wf m)
    (hb : ∀ m, b = some m → Memory.wf m) : (s.take rest b).Inv where
  idle := hs.idle
  buffer := by
    cases b with
    | none => exact hs.buffer
    | some m => exact hb m rfl
  response := hs.response
  offers := hrest

theorem doReset_inv (hs : s.Inv) : s.doReset.Inv where
  idle := rfl
  buffer := by rw [doReset_buffer, hs.idle]; exact hs.buffer
  response := nofun
  offers := hs.offers

/-- A reset during a command is a reset of the state whose buffer the command has partly stored to (R191). -/
theorem abandon_inv (i : Instr) (hs : s.Inv) : (s.abandon i).Inv :=
  doReset_inv ⟨hs.idle, writeBytes_keeps_wf _ _ hs.buffer, hs.response, hs.offers⟩

end

/-- Settles O45: each of the four things a step can do keeps the invariant, a command because it was decoded. -/
theorem stepKeepsInvariant : Obligations.StepKeepsInvariant := by
  intro s t hs h
  have hoffers := hs.offers
  obtain ⟨-, rfl⟩ | ⟨rest, ho, rfl⟩ | ⟨d, b, rest, i, ho, hd, hx⟩ | ⟨d, b, rest, i, ho, -, -, rfl⟩ := step_cases h
  · exact idle_inv hs
  · obtain ⟨-, hrest⟩ := List.forall_mem_cons.1 (ho ▸ hoffers)
    exact doReset_inv (take_inv hs hrest nofun)
  · obtain ⟨hb, hrest⟩ := List.forall_mem_cons.1 (ho ▸ hoffers)
    exact exec_keeps_inv (decodeWords_wellFormed hd) (take_inv hs hrest hb) hx
  · obtain ⟨hb, hrest⟩ := List.forall_mem_cons.1 (ho ▸ hoffers)
    exact abandon_inv i (take_inv hs hrest hb)

theorem resetOf_inv (b : Build) (n : Nat) : (State.resetOf b n).Inv := ⟨rfl, List.Pairwise.nil, nofun, nofun⟩

/-- Settles O44: after a reset the buffer, the response and the host's moves are empty. -/
theorem invariantAtReset : Obligations.InvariantAtReset := ⟨resetOf_inv _ _, resetOf_inv⟩

end Sys2Proof.Machine
end

section
/-! SUPPORT. The counter lane (10_state.md section 2): on either engine a step adds `INC` to it, so it advances word by
word (R26), and from zero it rises until it wraps (R27). -/

namespace Sys2Proof.Machine

open Sys2Proof

/-- What one step of either engine does to the counter lane (R26). -/
def bumpCounter (c : Lane) : Lane := ladd c counterIncrement

theorem stepFull_counter (l : FullLanes) : (stepFull l).c = bumpCounter l.c := rfl

theorem stepHalf_counter (l : HalfLanes) : (stepHalf l).c = bumpCounter l.c := rfl

theorem stepFull_iterate_counter (n : Nat) (l : FullLanes) : (stepFull^[n] l).c = bumpCounter^[n] l.c :=
  Function.Semiconj.iterate_right (f := FullLanes.c) stepFull_counter n l

theorem stepHalf_iterate_counter (n : Nat) (l : HalfLanes) : (stepHalf^[n] l).c = bumpCounter^[n] l.c :=
  Function.Semiconj.iterate_right (f := HalfLanes.c) stepHalf_counter n l

/-- Counter word `k` after `n` steps (R26). -/
theorem word_bumpCounter_iterate {k inc : Nat} (hk : k < 4) (hinc : (Lane.word counterIncrement k).toNat = inc)
    (n : Nat) (c : Lane) :
    (Lane.word (bumpCounter^[n] c) k).toNat = ((Lane.word c k).toNat + inc * n) % 2 ^ 64 := by
  induction n with
  | zero => simp [Nat.mod_eq_of_lt (Lane.word c k).isLt]
  | succ n ih =>
    rw [Function.iterate_succ_apply', bumpCounter, word_ladd _ _ k hk, BitVec.toNat_add, ih, hinc, Nat.mod_add_mod,
      Nat.mul_succ, Nat.add_assoc]

/-- The four counter words after `n` steps: `INC` = 7, 5, 3, 1 (R9, R26). -/
theorem words_bumpCounter_iterate (n : Nat) (c : Lane) :
    (Lane.word (bumpCounter^[n] c) 0).toNat = ((Lane.word c 0).toNat + 7 * n) % 2 ^ 64 ∧
    (Lane.word (bumpCounter^[n] c) 1).toNat = ((Lane.word c 1).toNat + 5 * n) % 2 ^ 64 ∧
    (Lane.word (bumpCounter^[n] c) 2).toNat = ((Lane.word c 2).toNat + 3 * n) % 2 ^ 64 ∧
    (Lane.word (bumpCounter^[n] c) 3).toNat = ((Lane.word c 3).toNat + n) % 2 ^ 64 := by
  refine ⟨word_bumpCounter_iterate (by decide) (by decide) n c, word_bumpCounter_iterate (by decide) (by decide) n c,
    word_bumpCounter_iterate (by decide) (by decide) n c, ?_⟩
  rw [word_bumpCounter_iterate (inc := 1) (by decide) (by decide) n c, Nat.one_mul]

/-- The lanes a valid `GEN` leaves (R107, R127). -/
theorem gen_valid_lanes {L : Type} (R : StepRule L) {size blen : Nat} (l : L) (m : Memory) (hsize : size % R.block = 0)
    (hblen : blen = 0 ∨ size ≤ blen) : (R.gen size blen l m).lanes = R.step^[size / R.block] l := by
  rw [gen_valid R l m (validate_ok hsize hblen), loop_lanes]

/-- A valid `GEN` on an idle FULL instance advances its lanes by `size / 128` steps (R107). -/
theorem genFull_engine {s : State} {p : FullParams} {l : FullLanes} {size blen : Nat} (hb : s.busy = false)
    (he : s.engine = .full p l) (hsize : size % 128 = 0) (hblen : blen = 0 ∨ size ≤ blen) :
    ∃ t, exec (.genFull size blen) s = .next t ∧ t.engine = .full p (stepFull^[size / 128] l) :=
  ⟨_, runOnFull_idle _ hb he, congrArg (Engine.full p) (gen_valid_lanes fullRule l s.buffer hsize hblen)⟩

/-- A valid `GEN` on an idle HALF instance advances its lanes by `size / 32` steps (R127). -/
theorem genHalf_engine {s : State} {p : HalfParams} {l : HalfLanes} {size blen : Nat} (hb : s.busy = false)
    (he : s.engine = .half p l) (hsize : size % 32 = 0) (hblen : blen = 0 ∨ size ≤ blen) :
    ∃ t, exec (.genHalf size blen) s = .next t ∧ t.engine = .half p (stepHalf^[size / 32] l) :=
  ⟨_, runOnHalf_idle _ hb he, congrArg (Engine.half p) (gen_valid_lanes halfRule l s.buffer hsize hblen)⟩

/-- Settles O28: a valid `GEN` of n steps iterates the step, which bumps the counter once. -/
theorem counterAdvancesPerStep : Obligations.CounterAdvancesPerStep := by
  constructor
  · intro s p l size blen hb he hsize hblen
    obtain ⟨t, hx, ht⟩ := genFull_engine hb he hsize hblen
    exact ⟨t, _, hx, ht, stepFull_iterate_counter (size / 128) l ▸ words_bumpCounter_iterate (size / 128) l.c⟩
  · intro s p l size blen hb he hsize hblen
    obtain ⟨t, hx, ht⟩ := genHalf_engine hb he hsize hblen
    exact ⟨t, _, hx, ht, stepHalf_iterate_counter (size / 32) l ▸ words_bumpCounter_iterate (size / 32) l.c⟩

/-- A word, as a function of the number of steps, that is `inc·n` modulo 2^64, rises as long as `inc·n` fits the word,
and wraps at the step after that (R27). -/
def RisesUntilItWraps (inc : Nat) (w : Nat → Nat) : Prop :=
  (∀ n, w n = inc * n % 2 ^ 64) ∧
  (∀ m n, m < n → n ≤ (2 ^ 64 - 1) / inc → w n = inc * n ∧ w m < w n) ∧
  w ((2 ^ 64 - 1) / inc + 1) < w ((2 ^ 64 - 1) / inc)

theorem risesUntilItWraps {inc : Nat} {w : Nat → Nat} (hpos : 0 < inc) (hinc : inc < 2 ^ 64)
    (hw : ∀ n, w n = inc * n % 2 ^ 64) : RisesUntilItWraps inc w := by
  have hfits : ∀ n, n ≤ (2 ^ 64 - 1) / inc → w n = inc * n := by
    intro n hn
    have := (Nat.mul_le_mul_left inc hn).trans (Nat.mul_div_le (2 ^ 64 - 1) inc)
    rw [hw, Nat.mod_eq_of_lt (by omega)]
  refine ⟨hw, fun m n hmn hn => ?_, ?_⟩
  · rw [hfits n hn, hfits m (hmn.le.trans hn)]
    exact ⟨rfl, Nat.mul_lt_mul_of_pos_left hmn hpos⟩
  · have hlast := Nat.mul_div_le (2 ^ 64 - 1) inc
    have hnext := Nat.lt_mul_div_succ (2 ^ 64 - 1) hpos
    rw [hfits _ le_rfl, hw]
    rw [Nat.mul_succ] at hnext ⊢
    omega

theorem word_bumpCounter_risesUntilItWraps {k inc : Nat} (hk : k < 4)
    (hinc : (Lane.word counterIncrement k).toNat = inc) (hpos : 0 < inc) :
    RisesUntilItWraps inc fun n => (Lane.word (bumpCounter^[n] 0) k).toNat := by
  have hlt : inc < 2 ^ 64 := hinc ▸ (Lane.word counterIncrement k).isLt
  have hzero : (Lane.word 0 k).toNat = 0 := by simp [Lane.word, slice]
  exact risesUntilItWraps hpos hlt fun n => by rw [word_bumpCounter_iterate hk hinc, hzero, Nat.zero_add]

theorem counterIncrement_of_mem {k inc : Nat} (h : (k, inc) ∈ [(0, 7), (1, 5), (2, 3), (3, 1)]) :
    k < 4 ∧ (Lane.word counterIncrement k).toNat = inc ∧ 0 < inc := by
  simp only [List.mem_cons, List.not_mem_nil, Prod.mk.injEq, or_false] at h
  obtain ⟨rfl, rfl⟩ | ⟨rfl, rfl⟩ | ⟨rfl, rfl⟩ | ⟨rfl, rfl⟩ := h <;> decide

/-- Settles O29: on either engine the counter lane after n steps is `bumpCounter` n times, so each of its words rises
until it wraps. -/
theorem counterRisesUntilItWraps : Obligations.CounterRisesUntilItWraps := by
  refine ⟨fun k inc h => ?_, by decide⟩
  obtain ⟨hk, hinc, hpos⟩ := counterIncrement_of_mem h
  constructor
  · intro l hl
    simp only [stepFull_iterate_counter, hl]
    exact word_bumpCounter_risesUntilItWraps hk hinc hpos
  · intro l hl
    simp only [stepHalf_iterate_counter, hl]
    exact word_bumpCounter_risesUntilItWraps hk hinc hpos

end Sys2Proof.Machine
end

section
/-! SUPPORT. The rest of 10_state.md: what a step runs (section 4, R30), the state after reset (section 5, R35), and
that no step depends on an earlier response (section 4, R32). -/

namespace Sys2Proof.Machine

open Sys2Proof

/-- Settles O1: `step_command`, and for a descriptor held as bytes that they decode as it does. -/
theorem stepRunsIssuedCommand : Obligations.StepRunsIssuedCommand := by
  intro s buffer rest i
  refine ⟨fun d ho hd => step_command ho hd, fun bytes tail ho hbytes => ?_⟩
  obtain ⟨-, hd, -⟩ := decode_ok hbytes
  exact step_command ho hd

/-- Settles O43: `State.resetOf` writes each field, and `Engine.unspecified` each lane, of either build. -/
theorem resetLeavesLanesFree : Obligations.ResetLeavesLanesFree := by
  intro b n
  refine ⟨rfl, rfl, rfl, ?_, ?_⟩
  · rintro p rfl; rfl
  · rintro p rfl; rfl

/-- A command drops the response before it runs: `State.accept` (R32, R33). -/
theorem exec_ignores_response (i : Instr) (s : State) (r : Option Response) :
    exec i { s with response := r } = exec i s := by
  cases i <;> rfl

/-- Settles O50: idling and both resets replace the response whatever it was, and a command does as it is accepted. -/
theorem responseIsNotLatched : Obligations.ResponseIsNotLatched := by
  rintro ⟨engine, busy, buffer, response, offers, draws⟩ r
  cases offers with
  | nil => rfl
  | cons move rest =>
    cases move with
    | reset => rfl
    | commandThenReset d b => rfl
    | command d b =>
      cases hd : decodeWords engine.variant d with
      | error reason => exact (step_invalid rfl hd).trans (step_invalid rfl hd).symm
      | ok i =>
        rw [step_command rfl hd, step_command rfl hd]
        exact exec_ignores_response i ⟨engine, busy, b.getD buffer, response, rest, draws⟩ r

end Sys2Proof.Machine
end

section
/-! SUPPORT. The views of a value (20_memory.md R41): a value is the sum of its slices, each with its weight, and the
slices of a lane's word, 32-bit word or half are the lane's own. -/

namespace Sys2Proof

theorem toNat_slice {m : Nat} (w : Nat) (x : BitVec m) (k : Nat) :
    (slice w x k).toNat = x.toNat / 2 ^ (w * k) % 2 ^ w := by
  rw [slice, BitVec.extractLsb'_toNat, Nat.shiftRight_eq_div_pow]

/-- The first `n` slices of `w` bits, slice 0 least significant, are the low `w·n` bits (R41). -/
theorem sum_slices_eq_mod {m : Nat} (w n : Nat) (x : BitVec m) :
    ∑ k ∈ Finset.range n, (slice w x k).toNat * 2 ^ (w * k) = x.toNat % 2 ^ (w * n) := by
  induction n with
  | zero => simp [Nat.mod_one]
  | succ n ih =>
    rw [Finset.sum_range_succ, ih, toNat_slice, Nat.mul_succ, Nat.pow_add, Nat.mod_mul, Nat.mul_comm (2 ^ (w * n))]

theorem toNat_eq_sum_slices {w n m : Nat} (x : BitVec m) (h : w * n = m) :
    x.toNat = ∑ k ∈ Finset.range n, (slice w x k).toNat * 2 ^ (w * k) := by
  rw [sum_slices_eq_mod, h, Nat.mod_eq_of_lt x.isLt]

end Sys2Proof

namespace Sys2Proof.Machine

open Sys2Proof

theorem slice_word (L : Lane) (k : Nat) {j : Nat} (hj : j < 2) :
    slice 32 (Lane.word L k) j = Lane.word32 L (2 * k + j) := slice_slice 32 64 2 k j L rfl hj

theorem slice_word32 (L : Lane) (i : Nat) {j : Nat} (hj : j < 4) :
    slice 8 (Lane.word32 L i) j = Lane.byte L (4 * i + j) := slice_slice 8 32 4 i j L rfl hj

theorem slice_lo (L : Lane) {j : Nat} (hj : j < 2) : slice 64 (Lane.lo L) j = Lane.word L j := by
  rw [Lane.lo, slice_slice 64 128 2 0 j L rfl hj, Nat.mul_zero, Nat.zero_add, Lane.word]

theorem slice_hi (L : Lane) {j : Nat} (hj : j < 2) : slice 64 (Lane.hi L) j = Lane.word L (2 + j) :=
  slice_slice 64 128 2 1 j L rfl hj

/-- Settles O8: each view is the sum of its slices, and those are slices of the lane. -/
theorem laneViewsAreLittleEndian : Obligations.LaneViewsAreLittleEndian := by
  intro L
  refine ⟨?_, fun k _ => ?_, fun i _ => ?_, ?_, ?_⟩
  · simpa [Finset.sum_range_succ, Lane.word] using toNat_eq_sum_slices (w := 64) (n := 4) L rfl
  · simpa [Finset.sum_range_succ, slice_word] using toNat_eq_sum_slices (w := 32) (n := 2) (Lane.word L k) rfl
  · simpa [Finset.sum_range_succ, slice_word32] using toNat_eq_sum_slices (w := 8) (n := 4) (Lane.word32 L i) rfl
  · simpa [Finset.sum_range_succ, slice_lo] using toNat_eq_sum_slices (w := 64) (n := 2) (Lane.lo L) rfl
  · simpa [Finset.sum_range_succ, slice_hi] using toNat_eq_sum_slices (w := 64) (n := 2) (Lane.hi L) rfl

end Sys2Proof.Machine
end

section
/-! SUPPORT. The buffer as a command meets it (20_memory.md sections 3 and 4): what a `GEN` answers and stores comes
from its operands and the lanes alone (R45), and a busy instance accepts no command (R50). -/

namespace Sys2Proof.Machine

open Sys2Proof

theorem validate_eq_ok_iff {block size blen : Nat} :
    validate block size blen = .ok ↔ size % block = 0 ∧ (blen = 0 ∨ size ≤ blen) := by
  refine ⟨fun hv => ?_, fun ⟨hsize, hblen⟩ => validate_ok hsize hblen⟩
  obtain ⟨-, h⟩ | ⟨-, -, -, h⟩ | ⟨hsize, hblen, -⟩ := validate_cases block size blen
  · simp [h] at hv
  · simp [h] at hv
  · exact ⟨hsize, hblen⟩

/-- Two computations of a command that differ at most in bytes neither of them stored. -/
structure Done.SameOutput {L : Type} (d d' : Done L) : Prop where
  status : d.status = d'.status
  lanes : d.lanes = d'.lanes
  written : d.written = d'.written
  stored : ∀ x, x < d'.written → d.buffer.read x = d'.buffer.read x

theorem sameOutput_of_nothing_written {L : Type} (st : Status) (l : L) (m m' : Memory) :
    Done.SameOutput ⟨st, l, m, 0⟩ ⟨st, l, m', 0⟩ := ⟨rfl, rfl, rfl, nofun⟩

section
variable {L : Type} (R : StepRule L)

/-- A valid `GEN` with a buffer stores `size` bytes (R104, R124). -/
theorem gen_valid_written {size blen : Nat} (l : L) (m : Memory) (hsize : size % R.block = 0) (hroom : size ≤ blen) :
    (R.gen size blen l m).written = size := by
  have hblocks : R.block * (size / R.block) = size := Nat.mul_div_cancel' (Nat.dvd_of_mod_eq_zero hsize)
  rw [gen_valid R l m (validate_ok hsize (.inr hroom)), loop_written R _ (by rw [Nat.zero_add, hblocks]; exact hroom),
    hblocks, Nat.zero_add]

/-- Byte `x` that a valid `GEN` stores is byte `x mod block` of what step `x / block` emits (R42, R43, R107). -/
theorem gen_valid_read (hb : 0 < R.block) (hlen : ∀ l, (R.emit l).length = R.block) {size blen x : Nat} (l : L)
    (m : Memory) (hsize : size % R.block = 0) (hroom : size ≤ blen) (hx : x < size) :
    (R.gen size blen l m).buffer.read x = some ((R.emit (R.step^[x / R.block] l)).getD (x % R.block) 0) := by
  have hblocks : R.block * (size / R.block) = size := Nat.mul_div_cancel' (Nat.dvd_of_mod_eq_zero hsize)
  have hstep : x / R.block < size / R.block := Nat.div_lt_of_lt_mul (hblocks.symm ▸ hx)
  have hread := loop_read_inside R hlen (blen := blen) (k := 0) ⟨l, m, 0⟩
    (by rw [Nat.zero_add, hblocks]; exact hroom) hstep (Nat.mod_lt x hb)
  rw [Nat.zero_add, Nat.div_add_mod] at hread
  rw [gen_valid R l m (validate_ok hsize (.inr hroom)), hread]

/-- `GEN` never reads its buffer: a failed one and one in discard mode store nothing, and every byte that another one
stores is a byte of the stream (R45, R105, R163). -/
theorem gen_sameOutput (hb : 0 < R.block) (hlen : ∀ l, (R.emit l).length = R.block) (size blen : Nat) (l : L)
    (m m' : Memory) : (R.gen size blen l m).SameOutput (R.gen size blen l m') := by
  by_cases hv : validate R.block size blen = .ok
  · obtain ⟨hsize, rfl | hroom⟩ := validate_eq_ok_iff.1 hv
    · rw [gen_discard R hb l m hsize, gen_discard R hb l m' hsize]
      exact sameOutput_of_nothing_written _ _ _ _
    · have hwritten := gen_valid_written R l m' hsize hroom
      exact {
        status := by rw [gen_valid R l m hv, gen_valid R l m' hv]
        lanes := by rw [gen_valid_lanes R l m hsize (.inr hroom), gen_valid_lanes R l m' hsize (.inr hroom)]
        written := by rw [gen_valid_written R l m hsize hroom, hwritten]
        stored := fun x hx => by
          rw [hwritten] at hx
          rw [gen_valid_read R hb hlen l m hsize hroom hx, gen_valid_read R hb hlen l m' hsize hroom hx] }
  · rw [gen_invalid R l m hv, gen_invalid R l m' hv]
    exact sameOutput_of_nothing_written _ _ _ _

end

/-- The answer `u` has the lanes, the response and the stored bytes of the answer `t` (R45). -/
def State.AnswersAs (u t : State) : Prop :=
  u.engine = t.engine ∧ u.response = t.response ∧
    ∀ r x, t.response = some r → x < r.written → u.buffer.read x = t.buffer.read x

section
variable {s t : State} {m : Memory}

theorem answersAs_of_sameOutput {L : Type} {d d' : Done L} (E : L → Engine) (hd : d.SameOutput d') :
    State.AnswersAs
      { s with engine := E d.lanes, busy := false, buffer := d.buffer, response := some ⟨d.status, d.written⟩ }
      { s with engine := E d'.lanes, busy := false, buffer := d'.buffer
               response := some ⟨d'.status, d'.written⟩ } := by
  obtain ⟨hstatus, hlanes, hwritten, hstored⟩ := hd
  refine ⟨congrArg E hlanes, by simp only [hstatus, hwritten], ?_⟩
  rintro r x ⟨rfl⟩ hx
  exact hstored x hx

theorem runOnFull_ignores_buffer {f : FullParams → FullLanes → Memory → Done FullLanes}
    (hf : ∀ p l m m', (f p l m).SameOutput (f p l m')) (h : runOnFull s f = .next t) :
    ∃ u, runOnFull { s with buffer := m } f = .next u ∧ u.AnswersAs t := by
  obtain ⟨-, hr⟩ | ⟨-, p, l, -, hr⟩ | ⟨hb, p, l, he, hr⟩ := runOnFull_cases s f <;> rw [hr] at h <;> cases h
  exact ⟨_, runOnFull_idle (s := { s with buffer := m }) f hb he,
    answersAs_of_sameOutput (.full p) (hf p l m s.buffer)⟩

theorem runOnHalf_ignores_buffer {f : HalfParams → HalfLanes → Memory → Done HalfLanes}
    (hf : ∀ p l m m', (f p l m).SameOutput (f p l m')) (h : runOnHalf s f = .next t) :
    ∃ u, runOnHalf { s with buffer := m } f = .next u ∧ u.AnswersAs t := by
  obtain ⟨-, hr⟩ | ⟨-, p, l, -, hr⟩ | ⟨hb, p, l, he, hr⟩ := runOnHalf_cases s f <;> rw [hr] at h <;> cases h
  exact ⟨_, runOnHalf_idle (s := { s with buffer := m }) f hb he,
    answersAs_of_sameOutput (.half p) (hf p l m s.buffer)⟩

end

/-- Settles O35: `INIT` stores nothing, and the output of `GEN` is the same with every buffer. -/
theorem bufferContentsAreNeverRead : Obligations.BufferContentsAreNeverRead := by
  intro s t m i h
  cases i with
  | initFull a b c d =>
    exact runOnFull_ignores_buffer
      (fun p _ => sameOutput_of_nothing_written .ok (initLanesFull p (seedWord a b c d))) h
  | initHalf a b c d =>
    exact runOnHalf_ignores_buffer
      (fun p _ => sameOutput_of_nothing_written .ok (initLanesHalf p (seedWord a b c d))) h
  | genFull size blen =>
    exact runOnFull_ignores_buffer (fun _ l => gen_sameOutput fullRule (by decide) length_emitFull size blen l) h
  | genHalf size blen =>
    exact runOnHalf_ignores_buffer (fun _ l => gen_sameOutput halfRule (by decide) length_emitHalf size blen l) h

/-- Settles O51: the other two outcomes of a command need an idle state. -/
theorem busyInstanceAcceptsNothing : Obligations.BusyInstanceAcceptsNothing := by
  intro s i hbusy
  have ho := exec_outcome i s
  generalize exec i s = o at ho ⊢
  cases ho with
  | busy => rfl
  | otherVariant hb => simp [hbusy] at hb
  | answered hb => simp [hbusy] at hb

end Sys2Proof.Machine
end

section
/-! SUPPORT. Commands and their encoding (30_encoding.md section 2): which descriptors decode and to what (R64, R75),
and that decoding and encoding are inverse to each other, on descriptors and on the bytes that hold them (R60, R75). -/

namespace Sys2Proof

/-- The header of a valid descriptor: an operation code with a zero reserved field is one word (R61). -/
theorem opc_rz0_iff (d : Descriptor) (c : Byte) : (d.opc = c ∧ d.rz0 = 0) ↔ d.w0 = c.setWidth 64 :=
  header_eq_iff d.w0 c

/-- Format `I` (R62). -/
theorem decodeWords_init {v : Variant} {d : Descriptor} (h0 : d.w0 = 0x0000000000000001) :
    decodeWords v d = .ok (Instr.initOf v d.w1 d.w2 d.w3 d.w4) := by
  obtain ⟨hopc, hrz⟩ := (opc_rz0_iff d 0x01).2 h0
  simp [decodeWords, hopc, hrz]

/-- Format `G` (R63). -/
theorem decodeWords_gen {v : Variant} {d : Descriptor} (h0 : d.w0 = 0x0000000000000002) (h3 : d.w3 = 0)
    (h4 : d.w4 = 0) : decodeWords v d = .ok (Instr.genOf v d.w1.toNat d.w2.toNat) := by
  obtain ⟨hopc, hrz⟩ := (opc_rz0_iff d 0x02).2 h0
  simp [decodeWords, decodeGen, hopc, hrz, h3, h4]

/-- The decoder as R75 writes it, by whole words. -/
theorem decodeWords_ok_iff {v : Variant} {d : Descriptor} {i : Instr} :
    decodeWords v d = .ok i ↔
      (d.w0 = 0x0000000000000001 ∧ i = Instr.initOf v d.w1 d.w2 d.w3 d.w4) ∨
      ((d.w0 = 0x0000000000000002 ∧ d.w3 = 0 ∧ d.w4 = 0) ∧ i = Instr.genOf v d.w1.toNat d.w2.toNat) := by
  constructor
  · intro h
    obtain ⟨hopc, hrz, hi⟩ | ⟨hopc, hrz, h3, h4, hi⟩ := decodeWords_ok h
    · exact .inl ⟨(opc_rz0_iff d 0x01).1 ⟨hopc, hrz⟩, hi⟩
    · exact .inr ⟨⟨(opc_rz0_iff d 0x02).1 ⟨hopc, hrz⟩, h3, h4⟩, hi⟩
  · rintro (⟨h0, rfl⟩ | ⟨⟨h0, h3, h4⟩, rfl⟩)
    · exact decodeWords_init h0
    · exact decodeWords_gen h0 h3 h4

/-- The valid descriptors (R68, R75). -/
theorem exists_decodeWords_ok_iff {v : Variant} {d : Descriptor} :
    (∃ i, decodeWords v d = .ok i) ↔
      d.w0 = 0x0000000000000001 ∨ (d.w0 = 0x0000000000000002 ∧ d.w3 = 0 ∧ d.w4 = 0) := by
  simp only [decodeWords_ok_iff, exists_or, exists_and_left, exists_eq, and_true]

@[simp] theorem encode_initOf (v : Variant) (a b c d : Word) :
    encode (Instr.initOf v a b c d) = ⟨1, a, b, c, d⟩ := by
  cases v <;> rfl

@[simp] theorem encode_genOf (v : Variant) (size blen : Nat) :
    encode (Instr.genOf v size blen) = ⟨2, BitVec.ofNat 64 size, BitVec.ofNat 64 blen, 0, 0⟩ := by
  cases v <;> rfl

@[simp] theorem variant_initOf (v : Variant) (a b c d : Word) : (Instr.initOf v a b c d).variant = v := by
  cases v <;> rfl

@[simp] theorem variant_genOf (v : Variant) (size blen : Nat) : (Instr.genOf v size blen).variant = v := by
  cases v <;> rfl

theorem toNat_ofNat_of_fits {n : Nat} (h : fitsSizeWord n = true) : (BitVec.ofNat 64 n).toNat = n := by
  rw [BitVec.toNat_ofNat, Nat.mod_eq_of_lt (fitsSizeWord_iff.1 h)]

theorem decodeWords_encode_genOf (v : Variant) {size blen : Nat} (h : (fitsSizeWord size && fitsSizeWord blen) = true) :
    decodeWords v (encode (Instr.genOf v size blen)) = .ok (Instr.genOf v size blen) := by
  obtain ⟨hsize, hblen⟩ := Bool.and_eq_true_iff.1 h
  rw [encode_genOf, decodeWords_gen rfl rfl rfl, toNat_ofNat_of_fits hsize, toNat_ofNat_of_fits hblen]

/-- `decode(encode(c)) = c` of R75, for the commands that have an encoding. -/
theorem decodeWords_encode {i : Instr} (hi : i.wellFormed = true) : decodeWords i.variant (encode i) = .ok i := by
  cases i with
  | initFull a b c d => exact decodeWords_init rfl
  | initHalf a b c d => exact decodeWords_init rfl
  | genFull size blen => exact decodeWords_encode_genOf .full hi
  | genHalf size blen => exact decodeWords_encode_genOf .half hi

@[simp] theorem length_descriptor_bytes (d : Descriptor) : d.bytes.length = 40 := by simp [Descriptor.bytes]

/-- The decoder reads the first 40 bytes as the descriptor they hold and leaves the rest (R60). -/
theorem decode_bytes_append (v : Variant) (d : Descriptor) (rest : List Byte) :
    decode v (d.bytes ++ rest) = (decodeWords v d).map fun i => (i, rest) := by
  have hlen : ¬(d.bytes ++ rest).length < 40 := by simp
  have hdrop : (d.bytes ++ rest).drop 40 = rest := List.drop_left' (length_descriptor_bytes d)
  rw [decode, if_neg hlen, ofBytes_bytes, hdrop]

/-- Settles O5: the bytes of a command hold its descriptor, and that decodes to the command. -/
theorem decodeOfEncodedBytes : Obligations.DecodeOfEncodedBytes := by
  intro i rest hi
  rw [encodeBytes, decode_bytes_append, decodeWords_encode hi]
  rfl

/-- Settles O3: the two formats decode, and nothing else does. -/
theorem decoderAcceptsExactlyTwoFormats : Obligations.DecoderAcceptsExactlyTwoFormats := by
  intro v d
  refine ⟨decodeWords_init, decodeWords_gen, fun hinit hgen => ?_⟩
  cases hd : decodeWords v d with
  | error r => exact ⟨r, rfl⟩
  | ok i => exact ((exists_decodeWords_ok_iff.1 ⟨i, hd⟩).elim hinit hgen).elim

/-- Settles O4: a mask of ones keeps its word and a mask of zeros asks nothing of it, so the two rows are the two
formats. -/
theorem validIffTableRowSelected : Obligations.ValidIffTableRowSelected := by
  intro v d
  have hones : ∀ w : Word, w &&& 0xFFFFFFFFFFFFFFFF = w := fun w => BitVec.and_allOnes
  have hzeros : ∀ w : Word, w &&& 0 = 0 := fun w => BitVec.and_zero
  simp only [exists_decodeWords_ok_iff, hones, hzeros, and_true, true_and]

theorem encode_of_decodeWords {v : Variant} {d : Descriptor} {i : Instr} (h : decodeWords v d = .ok i) :
    encode i = d := by
  obtain ⟨w0, w1, w2, w3, w4⟩ := d
  obtain ⟨rfl, rfl⟩ | ⟨⟨rfl, rfl, rfl⟩, rfl⟩ := decodeWords_ok_iff.1 h
  · exact encode_initOf v w1 w2 w3 w4
  · rw [encode_genOf, BitVec.ofNat_toNat, BitVec.ofNat_toNat, BitVec.setWidth_eq, BitVec.setWidth_eq]

theorem variant_of_decodeWords {v : Variant} {d : Descriptor} {i : Instr} (h : decodeWords v d = .ok i) :
    i.variant = v := by
  obtain ⟨-, rfl⟩ | ⟨-, rfl⟩ := decodeWords_ok_iff.1 h
  · exact variant_initOf ..
  · exact variant_genOf ..

/-- Settles O6: what decodes is one of the two formats, whose words are those of the command. -/
theorem encodeOfDecodedDescriptor : Obligations.EncodeOfDecodedDescriptor :=
  fun _ _ _ h => ⟨encode_of_decodeWords h, decodeWords_wellFormed h, variant_of_decodeWords h⟩

/-- Settles O7: the valid ones are of format `I` or `G`; each of the others breaks one of the rules of R68. -/
theorem writtenOutDescriptorsDecode : Obligations.WrittenOutDescriptorsDecode :=
  ⟨decodeWords_init rfl, decodeWords_init rfl, decodeWords_gen rfl rfl rfl, decodeWords_gen rfl rfl rfl,
    by decide, by decide, by decide, by decide⟩

end Sys2Proof
end

section
/-! SUPPORT. The rest of 30_encoding.md: an invalid descriptor is refused (section 3, R68, R69), and the response of a
`GEN` with its two words (section 4, R66, R67). -/

namespace Sys2Proof.Machine

open Sys2Proof

/-- A command has to be accepted before a reset can abandon it (log entry 14). -/
theorem step_abandon_invalid {s : State} {d : Descriptor} {b : Option Memory} {rest : List HostMove} {r : Reject}
    (h : s.offers = .commandThenReset d b :: rest) (hb : s.busy = false)
    (hd : decodeWords s.engine.variant d = .error r) : step s = .refused (.invalidDescriptor r) := by
  simp [step, fetch, fetchAbandoned, h, hb, hd]

/-- Settles O2: neither of the two moves that carry a descriptor runs one that does not decode. -/
theorem invalidDescriptorIsRefused : Obligations.InvalidDescriptorIsRefused := by
  rintro s d buffer rest r hb (ho | ho) hd
  · exact step_invalid ho hd
  · exact step_abandon_invalid ho hb hd

theorem toNat_rsp0 (r : Response) : r.rsp0.toNat = (Status.code r.status).toNat :=
  BitVec.toNat_setWidth_of_le (by decide)

theorem toNat_rsp1 {r : Response} (h : r.written < 2 ^ 64) : r.rsp1.toNat = r.written :=
  toNat_ofNat_of_fits (fitsSizeWord_iff.2 h)

/-- The response a computation is answered with (R66). -/
def Done.response {L : Type} (d : Done L) : Response := ⟨d.status, d.written⟩

section
variable {L : Type} (R : StepRule L) {size blen : Nat} (l : L) (m : Memory)

/-- The response of a `GEN` whose `size` is no whole number of blocks (R161, R163). -/
theorem gen_response_of_badSize (h : size % R.block ≠ 0) : (R.gen size blen l m).response = ⟨.eSize, 0⟩ := by
  have hv : validate R.block size blen = .eSize := by simp [validate, sizeIsBad, h]
  rw [gen_invalid R l m (by simp [hv]), hv]
  rfl

/-- The response of a `GEN` whose buffer is too short (R162, R163). -/
theorem gen_response_of_badBuffer (hsize : size % R.block = 0) (hbuffer : blen ≠ 0) (hshort : blen < size) :
    (R.gen size blen l m).response = ⟨.eBuffer, 0⟩ := by
  have hv : validate R.block size blen = .eBuffer := by simp [validate, sizeIsBad, bufferIsBad, hsize, hbuffer, hshort]
  rw [gen_invalid R l m (by simp [hv]), hv]
  rfl

/-- The response of a `GEN` that stores its blocks (R66). -/
theorem gen_response_of_room (hsize : size % R.block = 0) (hroom : size ≤ blen) :
    (R.gen size blen l m).response = ⟨.ok, size⟩ := by
  rw [Done.response, gen_valid_written R l m hsize hroom, gen_valid R l m (validate_ok hsize (.inr hroom))]

/-- The response of a `GEN` in discard mode (R66, R105). -/
theorem gen_response_of_noBuffer (hb : 0 < R.block) (hsize : size % R.block = 0) :
    (R.gen size 0 l m).response = ⟨.ok, 0⟩ := by
  rw [gen_discard R hb l m hsize]
  rfl

end

/-- The two words of a response to `GEN size, blen` on an engine of the given block size, in each of the command's
outcomes (R66, R67). -/
def Response.WordsOfGen (block size blen : Nat) (r : Response) : Prop :=
  (size % block ≠ 0 → r.rsp0.toNat = 1 ∧ r.rsp1.toNat = 0) ∧
  (size % block = 0 → blen ≠ 0 → blen < size → r.rsp0.toNat = 2 ∧ r.rsp1.toNat = 0) ∧
  (size % block = 0 → blen ≠ 0 → size ≤ blen → r.rsp0.toNat = 0 ∧ r.rsp1.toNat = size) ∧
  (size % block = 0 → blen = 0 → r.rsp0.toNat = 0 ∧ r.rsp1.toNat = 0)

theorem gen_response_wordsOfGen {L : Type} (R : StepRule L) (hb : 0 < R.block) {size : Nat} (hsize : size < 2 ^ 64)
    (blen : Nat) (l : L) (m : Memory) : (R.gen size blen l m).response.WordsOfGen R.block size blen := by
  refine ⟨fun h => ?_, fun h hbuffer hshort => ?_, fun h _ hroom => ?_, ?_⟩
  · rw [gen_response_of_badSize R l m h]
    decide
  · rw [gen_response_of_badBuffer R l m h hbuffer hshort]
    decide
  · rw [gen_response_of_room R l m h hroom, toNat_rsp0, toNat_rsp1 hsize]
    exact ⟨rfl, rfl⟩
  · rintro h rfl
    rw [gen_response_of_noBuffer R l m hb h]
    decide

/-- Settles O27: on either engine the response is that of the computation the command runs. -/
theorem responseWordsOfGen : Obligations.ResponseWordsOfGen := by
  constructor
  · intro s p l size blen hb he hsize
    exact ⟨_, _, runOnFull_idle _ hb he, rfl,
      gen_response_wordsOfGen fullRule (by decide) hsize blen l s.buffer⟩
  · intro s p l size blen hb he hsize
    exact ⟨_, _, runOnHalf_idle _ hb he, rfl,
      gen_response_wordsOfGen halfRule (by decide) hsize blen l s.buffer⟩

end Sys2Proof.Machine
end

section
/-! SUPPORT. The elementwise primitives (40_lane_primitives.md section 1): `LADD` and `LSHR` act word by word, `LXOR`
in every view of the lane alike. -/

namespace Sys2Proof

theorem slice_xor {m : Nat} (w : Nat) (x y : BitVec m) (k : Nat) :
    slice w (x ^^^ y) k = slice w x k ^^^ slice w y k := BitVec.extractLsb'_xor

@[simp] theorem slice_zero (w m k : Nat) : slice w (0 : BitVec m) k = 0 := BitVec.extractLsb'_zero

end Sys2Proof

namespace Sys2Proof.Machine

open Sys2Proof

theorem ladd_comm (a b : Lane) : ladd a b = ladd b a :=
  lane_ext_words fun k h => by rw [word_ladd a b k h, word_ladd b a k h, BitVec.add_comm]

theorem ladd_assoc (a b c : Lane) : ladd (ladd a b) c = ladd a (ladd b c) :=
  lane_ext_words fun k h => by
    rw [word_ladd _ c k h, word_ladd a b k h, word_ladd a _ k h, word_ladd b c k h, BitVec.add_assoc]

@[simp] theorem ladd_zero (a : Lane) : ladd a 0 = a :=
  lane_ext_words fun k h => by
    rw [word_ladd a 0 k h, show Lane.word 0 k = 0 from slice_zero 64 256 k, add_zero]

/-- Settles O9: each word of the sum is the sum of the words, so `LADD` has the laws of word addition. -/
theorem laddAddsWordByWord : Obligations.LaddAddsWordByWord := by
  intro a b c
  refine ⟨fun k h => ?_, ladd_comm a b, ladd_assoc a b c, ladd_zero a⟩
  rw [word_ladd a b k h, BitVec.toNat_add]

/-- Settles O10: each word of the result is the word shifted. -/
theorem lshrShiftsWordByWord : Obligations.LshrShiftsWordByWord := by
  intro a n k h
  rw [word_lshr a n k h, BitVec.toNat_ushiftRight, Nat.shiftRight_eq_div_pow]

/-- Settles O11: bytes and words are slices, and a slice of an exclusive or is the exclusive or of the slices. -/
theorem lxorInEveryView : Obligations.LxorInEveryView := by
  intro a b
  exact ⟨fun _ => BitVec.getLsbD_xor, fun j _ => slice_xor 8 a b j, fun k _ => slice_xor 64 a b k,
    BitVec.xor_self, BitVec.xor_zero⟩

end Sys2Proof.Machine
end

section
/-! SUPPORT. The align-right window (40_lane_primitives.md section 2): `ALIGNR` is the 128 bits that start at bit
`8 · amount` of the 256-bit concatenation of its operands (R84). -/

namespace Sys2Proof.Machine

open Sys2Proof

theorem alignSource_eq_byte_ofHalves (lower upper : LaneHalf) (j : Nat) :
    alignSource lower upper j = Lane.byte (Lane.ofHalves lower upper) j := by
  apply BitVec.eq_of_getLsbD_eq
  intro i hi
  rw [alignSource, Lane.byte, Lane.ofHalves, getLsbD_slice, BitVec.getLsbD_append]
  split
  · rw [getLsbD_slice, if_pos (by omega)]
  · rw [getLsbD_slice, if_neg (by omega), show 8 * j + i - 128 = 8 * (j - 16) + i by omega]

theorem alignr_eq_window (lower upper : LaneHalf) (amount : Fin 16) :
    alignr lower upper amount = (Lane.ofHalves lower upper).extractLsb' (8 * amount.val) 128 := by
  apply eq_of_slices 8 16 _ _ rfl
  intro j hj
  rw [byte_alignr _ _ _ _ hj, alignSource_eq_byte_ofHalves]
  apply BitVec.eq_of_getLsbD_eq
  intro i hi
  have hbit : 8 * j + i < 128 := by omega
  rw [Lane.byte, getLsbD_slice, getLsbD_slice, BitVec.getLsbD_extractLsb', decide_eq_true hbit, Bool.true_and,
    Nat.mul_add, Nat.add_comm (8 * j), Nat.add_assoc]

theorem toNat_ofHalves (lo hi : LaneHalf) : (Lane.ofHalves lo hi).toNat = hi.toNat * 2 ^ 128 + lo.toNat := by
  rw [Lane.ofHalves, BitVec.toNat_append, ← Nat.shiftLeft_add_eq_or_of_lt lo.isLt, Nat.shiftLeft_eq]

theorem alignr_zero (lower upper : LaneHalf) : alignr lower upper 0 = lower := by
  rw [alignr_eq_window, Lane.ofHalves]
  exact BitVec.extractLsb'_append_eq_right

/-- Settles O12: the byte map is the model's, and the integer form is that of the window. -/
theorem alignrIsTheByteWindow : Obligations.AlignrIsTheByteWindow := by
  intro lower upper amount
  refine ⟨fun j hj => byte_alignr lower upper amount j hj, ?_, alignr_zero lower upper⟩
  rw [alignr_eq_window, BitVec.extractLsb'_toNat, toNat_ofHalves, Nat.shiftRight_eq_div_pow]

/-- Bit `i` of the window is bit `8 · amount + i` of `lower` where `lower` has one, and a bit of `upper` from there on
(R91). Amount 0 is no exception: `upper` is then shifted out whole. -/
theorem alignr_eq_shift_or (lower upper : LaneHalf) (amount : Fin 16) :
    alignr lower upper amount = (lower >>> (8 * amount.val)) ||| (upper <<< (128 - 8 * amount.val)) := by
  apply BitVec.eq_of_getLsbD_eq
  intro i hi
  rw [alignr_eq_window, BitVec.getLsbD_extractLsb', Lane.ofHalves, BitVec.getLsbD_append, BitVec.getLsbD_or,
    BitVec.getLsbD_ushiftRight, BitVec.getLsbD_shiftLeft]
  by_cases hlow : 8 * amount.val + i < 128
  · have hvacated : i < 128 - 8 * amount.val := by omega
    simp [hi, hlow, hvacated]
  · have hfilled : ¬ i < 128 - 8 * amount.val := by omega
    have hsource : i - (128 - 8 * amount.val) = 8 * amount.val + i - 128 := by omega
    simp [hi, hlow, hfilled, hsource, BitVec.getLsbD_of_ge lower _ (Nat.le_of_not_lt hlow)]

/-- Settles O13: amount 0 is the window that is `lower` itself. -/
theorem alignrIsShiftAndOr : Obligations.AlignrIsShiftAndOr := by
  intro lower upper amount
  exact ⟨fun h => h ▸ alignr_zero lower upper, fun _ => alignr_eq_shift_or lower upper amount⟩

end Sys2Proof.Machine
end

section
/-! SUPPORT. The rotations (40_lane_primitives.md section 3). Rotating by `n` bytes moves every bit `8 · n` places, so it
moves every aligned slice whose width divides `8 · n` as a whole (R88); `ROT12` and `ROT20` are the cases 12 and 20. -/

namespace Sys2Proof

/-- A value of two slices is the higher one followed by the lower one (R41). -/
theorem append_slices {w : Nat} (x : BitVec (w + w)) : slice w x 1 ++ slice w x 0 = x := by
  rw [slice, slice, BitVec.extractLsb'_append_extractLsb'_eq_extractLsb' (by omega), Nat.mul_zero,
    BitVec.extractLsb'_eq_self]

end Sys2Proof

namespace Sys2Proof.Machine

open Sys2Proof

/-- Where each bit of a rotated lane comes from (R86, R87). -/
theorem getLsbD_rotateBytes (n : Nat) (L : Lane) {p : Nat} (h : p < 256) :
    (rotateBytes n L).getLsbD p = L.getLsbD ((p + 8 * n) % 256) := by
  have hbit : p % 8 < 8 := Nat.mod_lt p (by decide)
  rw [rotateBytes, Lane.ofBytes, getLsbD_assemble 32 _ p h, Lane.byte, getLsbD_slice, decide_eq_true h,
    decide_eq_true hbit, Bool.true_and, Bool.true_and,
    show 8 * ((p / 8 + n) % 32) + p % 8 = (p + 8 * n) % 256 by omega]

/-- In units of `w` bits, `r` of them to a lane, a rotation by `q` units is a rotation of the units (R88). -/
theorem slice_rotateBytes {w r q n : Nat} (L : Lane) (hlane : w * r = 256) (hunits : w * q = 8 * n) {k : Nat}
    (h : k < r) : slice w (rotateBytes n L) k = slice w L ((k + q) % r) := by
  apply BitVec.eq_of_getLsbD_eq
  intro i hi
  have hunit : w * (k + 1) ≤ w * r := Nat.mul_le_mul_left w h
  have hin : w * k + i < 256 := by rw [Nat.mul_succ] at hunit; omega
  have hsource : (w * k + i + 8 * n) % 256 = w * ((k + q) % r) + i := by
    rw [← hlane, ← hunits, show w * k + i + w * q = i + w * (k + q) by ring, Nat.mod_mul, Nat.add_mul_mod_self_left,
      Nat.add_mul_div_left _ _ (by omega), Nat.div_eq_of_lt hi, Nat.mod_eq_of_lt hi, Nat.zero_add, Nat.add_comm]
  rw [getLsbD_slice, getLsbD_slice, getLsbD_rotateBytes n L hin, hsource]

theorem word32_rotateBytes {q n : Nat} (L : Lane) (hn : 4 * q = n) {i : Nat} (h : i < 8) :
    Lane.word32 (rotateBytes n L) i = Lane.word32 L ((i + q) % 8) :=
  slice_rotateBytes L (by decide) (by omega) h

/-- Form (a) of R86 and R87: `idx` is the rotation of the eight positions by `q`. -/
theorem rotateBytes_eq_perm32 {q n : Nat} (L : Lane) (hn : 4 * q = n) (idx : Vector (Fin 8) 8)
    (hidx : ∀ i, i < 8 → (idx.toList.getD i 0).val = (i + q) % 8) : rotateBytes n L = perm32 L idx :=
  lane_ext_words32 fun i h => by rw [word32_rotateBytes L hn h, word32_perm32 L idx i h, hidx i h]

theorem ofHalves_lo_hi (L : Lane) : Lane.ofHalves (Lane.lo L) (Lane.hi L) = L := append_slices (w := 128) L

/-- Rotating by 16 bytes exchanges the halves (R87). -/
theorem lo_rotateBytes_16 (L : Lane) : Lane.lo (rotateBytes 16 L) = Lane.hi L :=
  slice_rotateBytes (r := 2) (q := 1) L (by decide) (by decide) (by decide)

theorem hi_rotateBytes_16 (L : Lane) : Lane.hi (rotateBytes 16 L) = Lane.lo L :=
  slice_rotateBytes (r := 2) (q := 1) L (by decide) (by decide) (by decide)

theorem ofHalves_hi_lo (L : Lane) : Lane.ofHalves (Lane.hi L) (Lane.lo L) = rotateBytes 16 L := by
  rw [← lo_rotateBytes_16 L, ← hi_rotateBytes_16 L, ofHalves_lo_hi]

/-- Form (b) of R86: a rotation by fewer than 16 bytes is two windows, each of the lane or of the lane with its halves
exchanged (R88). -/
theorem rotateBytes_eq_windows (L : Lane) (amount : Fin 16) :
    rotateBytes amount.val L =
      Lane.ofHalves (alignr (Lane.lo L) (Lane.hi L) amount) (alignr (Lane.hi L) (Lane.lo L) amount) := by
  apply lane_ext_bytes
  intro j hj
  rw [byte_rotateBytes _ L j hj, ← alignSource_eq_byte_ofHalves, alignSource]
  split
  case isTrue hlow =>
    rw [byte_alignr _ _ _ _ hlow, alignSource_eq_byte_ofHalves, ofHalves_lo_hi, Nat.mod_eq_of_lt (by omega)]
  case isFalse hhigh =>
    rw [byte_alignr _ _ _ _ (by omega), alignSource_eq_byte_ofHalves, ofHalves_hi_lo,
      byte_rotateBytes 16 L _ (by omega), show j - 16 + amount.val + 16 = j + amount.val by omega]

theorem rotateBytes_rotateBytes (m n : Nat) (L : Lane) : rotateBytes m (rotateBytes n L) = rotateBytes (m + n) L :=
  lane_ext_bytes fun j h => by
    rw [byte_rotateBytes m _ j h, byte_rotateBytes n L _ (Nat.mod_lt _ (by decide)), byte_rotateBytes _ L j h,
      Nat.mod_add_mod, Nat.add_assoc]

/-- Form (b) of R87: a rotation by 16 bytes or more exchanges the halves first. -/
theorem rotateBytes_add_16_eq_windows (L : Lane) (amount : Fin 16) :
    rotateBytes (amount.val + 16) L =
      Lane.ofHalves (alignr (Lane.hi L) (Lane.lo L) amount) (alignr (Lane.lo L) (Lane.hi L) amount) := by
  rw [← rotateBytes_rotateBytes, rotateBytes_eq_windows, lo_rotateBytes_16, hi_rotateBytes_16]

/-- Form (c) of R86 and R87. -/
theorem rotateBytes_eq_rotateRight {n : Nat} (L : Lane) (h : n < 32) : rotateBytes n L = L.rotateRight (8 * n) := by
  apply BitVec.eq_of_getLsbD_eq
  intro p hp
  rw [getLsbD_rotateBytes n L hp, BitVec.getLsbD_rotateRight, Nat.mod_eq_of_lt (by omega : 8 * n < 256)]
  by_cases hlow : p < 256 - 8 * n
  · rw [decide_eq_true hlow, cond_true, Nat.mod_eq_of_lt (by omega), Nat.add_comm]
  · rw [decide_eq_false hlow, cond_false, decide_eq_true hp, Bool.true_and,
      show (p + 8 * n) % 256 = p - (256 - 8 * n) by omega]

/-- Settles O14: the forms (a), (b) and (c) of a rotation by any amount, at 12 and at 20 bytes. -/
theorem rotationsAgreeInEveryForm : Obligations.RotationsAgreeInEveryForm := by
  intro L
  refine ⟨byte_rotateBytes 12 L, byte_rotateBytes 20 L, ?_, ?_, rotateBytes_eq_windows L 12,
    rotateBytes_add_16_eq_windows L 4, ?_, ?_⟩
  · exact rotateBytes_eq_perm32 (q := 3) L rfl _ (by decide)
  · exact rotateBytes_eq_perm32 (q := 5) L rfl _ (by decide)
  · exact (rotateBytes_eq_rotateRight L (by decide)).trans BitVec.rotateRight_def
  · exact (rotateBytes_eq_rotateRight L (by decide)).trans BitVec.rotateRight_def

theorem word_eq_word32_append (L : Lane) (k : Nat) :
    Lane.word L k = Lane.word32 L (2 * k + 1) ++ Lane.word32 L (2 * k) := by
  rw [← slice_word L k (by decide : 1 < 2), ← Nat.add_zero (2 * k), ← slice_word L k (by decide : 0 < 2)]
  exact (append_slices (w := 32) (Lane.word L k)).symm

/-- The word forms of R86 and R87, for a rotation by `q` 32-bit words. -/
theorem word_rotateBytes {q n : Nat} (L : Lane) (hn : 4 * q = n) {k : Nat} (h : k < 4) :
    Lane.word (rotateBytes n L) k = Lane.word32 L ((2 * k + 1 + q) % 8) ++ Lane.word32 L ((2 * k + q) % 8) := by
  rw [word_eq_word32_append, word32_rotateBytes L hn (by omega), word32_rotateBytes L hn (by omega)]

/-- Settles O15: `ROT12` moves three 32-bit words or 96 bits, `ROT20` five or 160. -/
theorem rotationWordsAndBits : Obligations.RotationWordsAndBits := by
  intro L
  refine ⟨fun k h => ?_, fun k h => ?_, fun p h => getLsbD_rotateBytes 12 L h, fun p h => getLsbD_rotateBytes 20 L h⟩
  · rw [rot12, word_rotateBytes (q := 3) L rfl h, Nat.add_right_comm]
  · rw [rot20, word_rotateBytes (q := 5) L rfl h, Nat.add_right_comm]

theorem rotateBytes_of_whole_turns {n : Nat} (L : Lane) (h : n % 32 = 0) : rotateBytes n L = L :=
  lane_ext_bytes fun j hj => by rw [byte_rotateBytes n L j hj, show (j + n) % 32 = j by omega]

theorem rotateBytes_iterate (n k : Nat) (L : Lane) : (rotateBytes n)^[k] L = rotateBytes (n * k) L := by
  induction k with
  | zero => exact (rotateBytes_of_whole_turns L rfl).symm
  | succ k ih => rw [Function.iterate_succ_apply', ih, rotateBytes_rotateBytes, Nat.mul_succ, Nat.add_comm]

theorem rotateBytes_lxor (n : Nat) (a b : Lane) :
    rotateBytes n (lxor a b) = lxor (rotateBytes n a) (rotateBytes n b) :=
  BitVec.eq_of_getLsbD_eq fun p h => by
    rw [lxor, lxor, BitVec.getLsbD_xor, getLsbD_rotateBytes n _ h, getLsbD_rotateBytes n _ h,
      getLsbD_rotateBytes n _ h, BitVec.getLsbD_xor]

/-- Settles O16: rotations compose by adding their amounts, and 32 bytes are none; where a carry or a shifted bit crosses
from the low half of a word to the high half or back, the rotation parts the two. -/
theorem rotationLaws : Obligations.RotationLaws := by
  refine ⟨fun L => ⟨?_, ?_, (rotateBytes_iterate 4 3 L).symm, (rotateBytes_iterate 4 5 L).symm⟩,
    fun a b => ⟨rotateBytes_lxor 12 a b, rotateBytes_lxor 20 a b⟩, ?_, ?_, ?_, ?_⟩
  · exact (rotateBytes_rotateBytes 12 20 L).trans (rotateBytes_of_whole_turns L rfl)
  · exact (rotateBytes_rotateBytes 20 12 L).trans (rotateBytes_of_whole_turns L rfl)
  · exact ⟨Lane.lit 0xFFFFFFFF 0 0 0, Lane.lit 1 0 0 0, by decide⟩
  · exact ⟨Lane.lit 0xFFFFFFFF 0 0 0, Lane.lit 1 0 0 0, by decide⟩
  · exact ⟨Lane.lit 0x100000000 0 0 0, by decide⟩
  · exact ⟨Lane.lit 0x100000000 0 0 0, by decide⟩

end Sys2Proof.Machine
end

section
/-! SUPPORT. `GEN` on either engine as the statements of 41_full_engine.md section 2 need it: what a command leaves of
the state it ran in, the stream of bytes an engine emits (R110), and what a `GEN` stores of it (R107). -/

namespace Sys2Proof.Machine

open Sys2Proof

/-- The state `s` after a command that computed `d` on an engine `E`: lanes, buffer and response are those of `d`, and
nothing else changes (R50, R66). -/
def State.answered {L : Type} (s : State) (E : L → Engine) (d : Done L) : State :=
  { s with engine := E d.lanes, buffer := d.buffer, response := some d.response }

/-- A computation that keeps lanes and buffer leaves a state that differs in the response alone (R106, R163). -/
theorem answered_of_unchanged {L : Type} {s : State} {E : L → Engine} {l : L} (he : s.engine = E l) (st : Status)
    (n : Nat) : s.answered E ⟨st, l, s.buffer, n⟩ = { s with response := some ⟨st, n⟩ } := by
  rw [State.answered, ← he]
  rfl

theorem answered_idle {L : Type} {s : State} {E : L → Engine} {d : Done L} (hb : s.busy = false) :
    (s.answered E d).busy = false := hb

theorem runOnFull_answers {s : State} {p : FullParams} {l : FullLanes}
    (f : FullParams → FullLanes → Memory → Done FullLanes)
    (hb : s.busy = false) (he : s.engine = .full p l) :
    runOnFull s f = .next (s.answered (.full p) (f p l s.buffer)) := by
  rw [runOnFull_idle f hb he, State.answered, hb]
  rfl

theorem runOnHalf_answers {s : State} {p : HalfParams} {l : HalfLanes}
    (f : HalfParams → HalfLanes → Memory → Done HalfLanes)
    (hb : s.busy = false) (he : s.engine = .half p l) :
    runOnHalf s f = .next (s.answered (.half p) (f p l s.buffer)) := by
  rw [runOnHalf_idle f hb he, State.answered, hb]
  rfl

section
variable {s : State} {p : FullParams} {l : FullLanes} (hb : s.busy = false) (he : s.engine = .full p l)
include hb he

theorem genFull_answers (size blen : Nat) :
    exec (.genFull size blen) s = .next (s.answered (.full p) (fullRule.gen size blen l s.buffer)) :=
  runOnFull_answers _ hb he

theorem initFull_answers (a b c d : Word) :
    exec (.initFull a b c d) s =
      .next (s.answered (.full p) ⟨.ok, initLanesFull p (seedWord a b c d), s.buffer, 0⟩) := by
  rw [exec, execInitFull, runOnFull_answers _ hb he]

end

section
variable {s : State} {p : HalfParams} {l : HalfLanes} (hb : s.busy = false) (he : s.engine = .half p l)
include hb he

theorem genHalf_answers (size blen : Nat) :
    exec (.genHalf size blen) s = .next (s.answered (.half p) (halfRule.gen size blen l s.buffer)) :=
  runOnHalf_answers _ hb he

theorem initHalf_answers (a b c d : Word) :
    exec (.initHalf a b c d) s =
      .next (s.answered (.half p) ⟨.ok, initLanesHalf p (seedWord a b c d), s.buffer, 0⟩) := by
  rw [exec, execInitHalf, runOnHalf_answers _ hb he]

end

/-- Byte `x` of the stream an engine emits from the lanes `l` on, stored or not (R110). -/
def StepRule.stream {L : Type} (R : StepRule L) (l : L) (x : Nat) : Byte :=
  (R.emit (R.step^[x / R.block] l)).getD (x % R.block) 0

/-- What the stream and the bytes stored from it rest on: blocks of `block` bytes, at least one (R9, R42). -/
structure StepRule.EmitsBlocks {L : Type} (R : StepRule L) : Prop where
  pos : 0 < R.block
  length : ∀ l, (R.emit l).length = R.block

theorem fullRule_emitsBlocks : fullRule.EmitsBlocks := ⟨by decide, length_emitFull⟩

theorem halfRule_emitsBlocks : halfRule.EmitsBlocks := ⟨by decide, length_emitHalf⟩

theorem getD_bytes_append_left (L : Lane) (rest : List Byte) {j : Nat} (hj : j < 32) :
    (Lane.bytes L ++ rest).getD j 0 = Lane.byte L j := by
  rw [List.getD_append _ _ _ _ (by rwa [length_bytes]), getD_bytes L j hj]

theorem getD_bytes_append_right (L : Lane) (rest : List Byte) (j : Nat) :
    (Lane.bytes L ++ rest).getD (32 + j) 0 = rest.getD j 0 := by
  rw [List.getD_append_right _ _ _ _ (by rw [length_bytes]; omega), length_bytes, Nat.add_sub_cancel_left]

/-- Output lane `i` is bytes `32·i` to `32·i + 31` of the block (R43). -/
theorem getD_emitFull (l : FullLanes) {i j : Nat} (hi : i < 4) (hj : j < 32) :
    (emitFull l).getD (32 * i + j) 0 = Lane.byte (l.out i) j := by
  rw [emitFull, List.append_assoc, List.append_assoc]
  match i with
  | 0 => rw [Nat.mul_zero, Nat.zero_add, getD_bytes_append_left _ _ hj]; rfl
  | 1 => rw [getD_bytes_append_right, getD_bytes_append_left _ _ hj]; rfl
  | 2 =>
    rw [show 32 * 2 + j = 32 + (32 + j) by omega, getD_bytes_append_right, getD_bytes_append_right,
      getD_bytes_append_left _ _ hj]
    rfl
  | 3 =>
    rw [show 32 * 3 + j = 32 + (32 + (32 + j)) by omega, getD_bytes_append_right, getD_bytes_append_right,
      getD_bytes_append_right, getD_bytes _ j hj]
    rfl

theorem fullRule_stream (l : FullLanes) (x : Nat) : fullRule.stream l x = fullStream l x := by
  have hbyte := getD_emitFull (stepFull^[x / 128] l) (i := x % 128 / 32) (j := x % 128 % 32) (by omega) (by omega)
  rw [Nat.div_add_mod, Nat.mod_mod_of_dvd x (by decide)] at hbyte
  exact hbyte

theorem halfRule_stream (l : HalfLanes) (x : Nat) : halfRule.stream l x = halfStream l x :=
  getD_bytes _ _ (Nat.mod_lt x (by decide))

section
variable {L : Type} (R : StepRule L)

/-- The stream from the lanes after `n` steps on is the stream without its first `n` blocks (R108, R110). -/
theorem stream_iterate_step (hR : R.EmitsBlocks) (n : Nat) (l : L) (x : Nat) :
    R.stream (R.step^[n] l) x = R.stream l (R.block * n + x) := by
  rw [StepRule.stream, StepRule.stream, Nat.mul_add_div hR.pos, Nat.mul_add_mod, Nat.add_comm n,
    Function.iterate_add_apply]

variable {size blen : Nat} (l : L) (m : Memory)

/-- A valid `GEN` with a buffer stores the stream (R104, R107). -/
theorem gen_stores_stream (hR : R.EmitsBlocks) {x : Nat} (hsize : size % R.block = 0) (hroom : size ≤ blen)
    (hx : x < size) : (R.gen size blen l m).buffer.read x = some (R.stream l x) :=
  gen_valid_read R hR.pos hR.length l m hsize hroom hx

/-- No `GEN` changes an offset from `size` on (R49). -/
theorem gen_read_outside (hR : R.EmitsBlocks) {x : Nat} (hx : size ≤ x) :
    (R.gen size blen l m).buffer.read x = m.read x := by
  by_cases hv : validate R.block size blen = .ok
  · have hblocks : R.block * (size / R.block) ≤ size := Nat.mul_div_le size R.block
    rw [gen_valid R l m hv]
    exact loop_read_outside R hR.length ⟨l, m, 0⟩ (.inr (by rw [Nat.zero_add]; omega))
  · rw [gen_invalid R l m hv]

/-- A valid `GEN` with a buffer, as it leaves the state: all but the bytes stored (R104, R107). -/
theorem answered_gen_of_room (s : State) (E : L → Engine) (hsize : size % R.block = 0) (hroom : size ≤ blen) :
    s.answered E (R.gen size blen l m) =
      { s with engine := E (R.step^[size / R.block] l), buffer := (R.gen size blen l m).buffer
               response := some ⟨.ok, size⟩ } := by
  rw [State.answered, gen_valid_lanes R l m hsize (.inr hroom), gen_response_of_room R l m hsize hroom]

/-- A valid `GEN` without a buffer, as it leaves the state: only the lanes advance (R100, R105). -/
theorem answered_gen_of_noBuffer (hR : R.EmitsBlocks) (s : State) (E : L → Engine) (hsize : size % R.block = 0) :
    s.answered E (R.gen size 0 l s.buffer) =
      { s with engine := E (R.step^[size / R.block] l), response := some ⟨.ok, 0⟩ } := by
  rw [gen_discard R hR.pos l s.buffer hsize]
  rfl

/-- A `GEN` that fails its validation leaves the state as it was, but for the response (R100, R163). -/
theorem answered_gen_of_invalid {s : State} {E : L → Engine} {l : L} (he : s.engine = E l)
    (hv : validate R.block size blen ≠ .ok) :
    s.answered E (R.gen size blen l s.buffer) = { s with response := some ⟨validate R.block size blen, 0⟩ } := by
  rw [gen_invalid R l s.buffer hv, answered_of_unchanged he]

/-- `GEN 0` runs no turn of its loop (R106, R126). -/
theorem gen_zero (blen : Nat) : R.gen 0 blen l m = ⟨.ok, l, m, 0⟩ := by
  rw [gen_valid R l m (validate_ok (Nat.zero_mod _) (.inr (Nat.zero_le blen))), Nat.zero_div, StepRule.loop]

end

end Sys2Proof.Machine
end

section
/-! SUPPORT. The Full Engine (41_full_engine.md sections 1 and 2): its step, the contract of its `GEN` and what that
stores; and, of either engine, the even state lanes and the pending outputs (R112, R123, R102, R122). -/

namespace Sys2Proof.Machine

open Sys2Proof

/-- Settles O19: the computation of the command stores the stream, and its answer is that of `answered_gen_of_room`. -/
theorem genFullStoresTheStream : Obligations.GenFullStoresTheStream := by
  intro s p l size blen hb he hsize _ hroom
  refine ⟨_, genFull_answers hb he size blen, answered_gen_of_room fullRule l _ s _ hsize hroom, fun x hx => ?_,
    fun x hx => ?_⟩
  · rw [← fullRule_stream]
    exact gen_stores_stream fullRule l s.buffer fullRule_emitsBlocks hsize hroom hx
  · exact gen_read_outside fullRule l s.buffer fullRule_emitsBlocks hx

/-- The first block of the stream is the pending output lanes (R103, R43). -/
theorem fullStream_firstBlock (l : FullLanes) {i j : Nat} (hi : i < 4) (hj : j < 32) :
    fullStream l (32 * i + j) = Lane.byte (l.out i) j := by
  have hx : 32 * i + j < 128 := by omega
  rw [← fullRule_stream, StepRule.stream, show fullRule.block = 128 from rfl, Nat.div_eq_of_lt hx,
    Nat.mod_eq_of_lt hx]
  exact getD_emitFull l hi hj

/-- Settles O17: `GEN 128, 128` stores the stream of one step, whose block is the pending outputs. -/
theorem fullStepLineByLine : Obligations.FullStepLineByLine := by
  intro s p l hb he
  obtain ⟨t, hx, ht, hstored, hframe⟩ :=
    genFullStoresTheStream s p l 128 128 hb he (by decide) (by decide) le_rfl
  have hlane {i j : Nat} (hi : i < 4) (hj : j < 32) : t.buffer.read (32 * i + j) = some (Lane.byte (l.out i) j) := by
    rw [hstored _ (by omega), fullStream_firstBlock l hi hj]
  refine ⟨t, _, _, _, _, hx, rfl, rfl, rfl, rfl, ht, fun j hj => ⟨?_, ?_, ?_, ?_⟩, hframe⟩
  · simpa [FullLanes.out] using hlane (i := 0) (by decide) hj
  · exact hlane (i := 1) (by decide) hj
  · exact hlane (i := 2) (by decide) hj
  · exact hlane (i := 3) (by decide) hj

/-- Settles O21: the validation decides between the failed answer and the two valid ones. -/
theorem genFullContract : Obligations.GenFullContract := by
  intro s p l size blen hb he
  refine ⟨fun hbad => ?_, fun hsize => ?_, fun hsize _ hroom => ?_⟩
  · have hv : validate fullRule.block size blen ≠ .ok := by
      rw [Ne, validate_eq_ok_iff, show fullRule.block = 128 from rfl]
      omega
    refine ⟨_, hv, ?_⟩
    rw [genFull_answers hb he, answered_gen_of_invalid fullRule he hv]
  · rw [genFull_answers hb he, answered_gen_of_noBuffer fullRule l fullRule_emitsBlocks s _ hsize]
    rfl
  · exact ⟨_, genFull_answers hb he size blen,
      congrArg some (gen_response_of_room fullRule l s.buffer hsize hroom)⟩

/-- Settles O26: on the engine of either variant `gen_zero` computes nothing. -/
theorem genOfSizeZeroChangesNothing : Obligations.GenOfSizeZeroChangesNothing := by
  rintro s v blen hb rfl
  have hgen (n : Nat) :
      exec (Instr.genOf s.engine.variant 0 n) s = .next { s with response := some ⟨.ok, 0⟩ } := by
    cases he : s.engine with
    | full p l =>
      rw [variant_full, Instr.genOf, genFull_answers hb he, gen_zero, answered_of_unchanged he, he]
    | half p l =>
      rw [variant_half, Instr.genOf, genHalf_answers hb he, gen_zero, answered_of_unchanged he, he]
  exact ⟨hgen blen, hgen 0⟩

/-- What one step of either engine does to an even state lane (R112, R123). -/
def stepEvenLane (x : Lane) : Lane := ladd (rot20 x) (lshr x 1)

theorem stepEvenLane_iterate_zero (n : Nat) : stepEvenLane^[n] 0 = 0 := Function.iterate_fixed (by decide) n

/-- Settles O30: an even lane of `n` steps is `stepEvenLane` `n` times, and that keeps zero. -/
theorem evenLanesEvolveAlone : Obligations.EvenLanesEvolveAlone := by
  intro n
  constructor
  · intro l
    have h0 : (stepFull^[n] l).s0 = stepEvenLane^[n] l.s0 :=
      Function.Semiconj.iterate_right (f := FullLanes.s0) (fun _ => rfl) n l
    have h2 : (stepFull^[n] l).s2 = stepEvenLane^[n] l.s2 :=
      Function.Semiconj.iterate_right (f := FullLanes.s2) (fun _ => rfl) n l
    exact ⟨h0, h2, fun hz => by rw [h0, hz, stepEvenLane_iterate_zero],
      fun hz => by rw [h2, hz, stepEvenLane_iterate_zero]⟩
  · intro l
    have h0 : (stepHalf^[n] l).s0 = stepEvenLane^[n] l.s0 :=
      Function.Semiconj.iterate_right (f := HalfLanes.s0) (fun _ => rfl) n l
    exact ⟨h0, fun hz => by rw [h0, hz, stepEvenLane_iterate_zero]⟩

section
variable {L : Type} (R : StepRule L) {size blen : Nat}

/-- A valid `GEN` of at least one step forgets what its first step forgets (R102, R122). -/
theorem gen_lanes_of_step_eq (hR : R.EmitsBlocks) {l l' : L} (m : Memory) (hstep : R.step l = R.step l')
    (hone : R.block ≤ size) (hsize : size % R.block = 0) (hblen : blen = 0 ∨ size ≤ blen) :
    (R.gen size blen l m).lanes = (R.gen size blen l' m).lanes := by
  obtain ⟨n, hn⟩ := Nat.exists_eq_succ_of_ne_zero (Nat.div_pos hone hR.pos).ne'
  rw [gen_valid_lanes R l m hsize hblen, gen_valid_lanes R l' m hsize hblen, hn, Function.iterate_succ_apply,
    Function.iterate_succ_apply, hstep]

/-- The response of a valid `GEN` comes from its operands alone (R66). -/
theorem gen_response_ignores_lanes (hR : R.EmitsBlocks) (l l' : L) (m : Memory) (hsize : size % R.block = 0)
    (hblen : blen = 0 ∨ size ≤ blen) : (R.gen size blen l m).response = (R.gen size blen l' m).response := by
  obtain rfl | hroom := hblen
  · rw [gen_response_of_noBuffer R l m hR.pos hsize, gen_response_of_noBuffer R l' m hR.pos hsize]
  · rw [gen_response_of_room R l m hsize hroom, gen_response_of_room R l' m hsize hroom]

end

/-- `STEP.F` reads no output lane (R102). -/
theorem stepFull_ignores_outputs (l : FullLanes) (o0 o1 o2 o3 : Lane) :
    stepFull { l with o0 := o0, o1 := o1, o2 := o2, o3 := o3 } = stepFull l := rfl

/-- `STEP.H` does not read the output lane (R122). -/
theorem stepHalf_ignores_output (l : HalfLanes) (o : Lane) : stepHalf { l with o := o } = stepHalf l := rfl

/-- Settles O31: the first step forgets the pending outputs, and the response comes from the operands. -/
theorem pendingOutputsOnlyEmitted : Obligations.PendingOutputsOnlyEmitted := by
  constructor
  · intro s p l o0 o1 o2 o3 size blen hb he hone hsize hblen
    exact ⟨_, _, genFull_answers hb he size blen,
      genFull_answers (s := { s with engine := .full p _ }) hb rfl size blen,
      congrArg (Engine.full p) (gen_lanes_of_step_eq fullRule fullRule_emitsBlocks s.buffer
        (stepFull_ignores_outputs l o0 o1 o2 o3).symm hone hsize hblen),
      congrArg some (gen_response_ignores_lanes fullRule fullRule_emitsBlocks l _ s.buffer hsize hblen)⟩
  · intro s p l o size blen hb he hone hsize hblen
    exact ⟨_, _, genHalf_answers hb he size blen,
      genHalf_answers (s := { s with engine := .half p _ }) hb rfl size blen,
      congrArg (Engine.half p) (gen_lanes_of_step_eq halfRule halfRule_emitsBlocks s.buffer
        (stepHalf_ignores_output l o).symm hone hsize hblen),
      congrArg some (gen_response_ignores_lanes halfRule halfRule_emitsBlocks l _ s.buffer hsize hblen)⟩

end Sys2Proof.Machine
end

section
/-! SUPPORT. Advancing the stream (41_full_engine.md section 3): two `GEN`s in a row, a `GEN` without its buffer, and
`SKIP` before a `GEN`, once for both engines and then for each (R108, R109, R110, R128, R153). -/

namespace Sys2Proof.Machine

open Sys2Proof

section
variable {L : Type} (R : StepRule L)

/-- After `GEN N` a `GEN` with a buffer stores the stream from byte `N` on (R108, R110). -/
theorem gen_stores_stream_after_gen (hR : R.EmitsBlocks) {N M b1 b2 x : Nat} (l : L) (m m' : Memory)
    (hN : N % R.block = 0) (hb1 : b1 = 0 ∨ N ≤ b1) (hM : M % R.block = 0) (hb2 : M ≤ b2) (hx : x < M) :
    (R.gen M b2 (R.gen N b1 l m).lanes m').buffer.read x = some (R.stream l (N + x)) := by
  rw [gen_stores_stream R _ m' hR hM hb2 hx, gen_valid_lanes R l m hN hb1, stream_iterate_step R hR,
    Nat.mul_div_cancel' (Nat.dvd_of_mod_eq_zero hN)]

/-- `GEN N` and then `GEN M` leave the lanes of `GEN (N + M)` (R108). -/
theorem gen_lanes_after_gen {N M b1 b2 b : Nat} (l : L) (m m' m'' : Memory) (hN : N % R.block = 0)
    (hM : M % R.block = 0) (hb1 : b1 = 0 ∨ N ≤ b1) (hb2 : b2 = 0 ∨ M ≤ b2) (hb : b = 0 ∨ N + M ≤ b) :
    (R.gen M b2 (R.gen N b1 l m).lanes m').lanes = (R.gen (N + M) b l m'').lanes := by
  have hNM : (N + M) % R.block = 0 := by simp [Nat.add_mod, hN, hM]
  rw [gen_valid_lanes R _ m' hM hb2, gen_valid_lanes R l m hN hb1, gen_valid_lanes R l m'' hNM hb,
    ← Function.iterate_add_apply, Nat.add_comm (M / R.block), Nat.add_div_of_dvd_right (Nat.dvd_of_mod_eq_zero hN)]

/-- `GEN N` and then `GEN M` store the last `M` bytes that `GEN (N + M)` stores (R108). -/
theorem gen_read_after_gen (hR : R.EmitsBlocks) {N M b1 b2 b x : Nat} (l : L) (m m' m'' : Memory)
    (hN : N % R.block = 0) (hM : M % R.block = 0) (hb1 : b1 = 0 ∨ N ≤ b1) (hb2 : M ≤ b2) (hb : N + M ≤ b)
    (hx : x < M) :
    (R.gen M b2 (R.gen N b1 l m).lanes m').buffer.read x = (R.gen (N + M) b l m'').buffer.read (N + x) := by
  have hNM : (N + M) % R.block = 0 := by simp [Nat.add_mod, hN, hM]
  rw [gen_stores_stream_after_gen R hR l m m' hN hb1 hM hb2 hx,
    gen_stores_stream R l m'' hR hNM hb (Nat.add_lt_add_left hx N)]

/-- A buffer that is long enough makes no difference to the lanes, also of a `GEN` that fails (R109). -/
theorem gen_lanes_of_noBuffer {size blen : Nat} (l : L) (m : Memory) (hroom : size ≤ blen) :
    (R.gen size 0 l m).lanes = (R.gen size blen l m).lanes := by
  by_cases hsize : size % R.block = 0
  · rw [gen_valid_lanes R l m hsize (.inl rfl), gen_valid_lanes R l m hsize (.inr hroom)]
  · have hbad (b : Nat) : validate R.block size b ≠ .ok := fun hv => hsize (validate_eq_ok_iff.1 hv).1
    rw [gen_invalid R l m (hbad 0), gen_invalid R l m (hbad blen)]

/-- Without a buffer `GEN` stores nothing (R105). -/
theorem gen_buffer_of_noBuffer (hR : R.EmitsBlocks) (size : Nat) (l : L) (m : Memory) :
    (R.gen size 0 l m).buffer = m := by
  by_cases hv : validate R.block size 0 = .ok
  · rw [gen_discard R hR.pos l m (validate_eq_ok_iff.1 hv).1]
  · rw [gen_invalid R l m hv]

end

/-- Settles O32: `gen_lanes_after_gen` and `gen_read_after_gen` on the Full Engine. -/
theorem advanceEquivalenceFull : Obligations.AdvanceEquivalenceFull := by
  intro s p l N M b1 b2 b hb he hN hM hb1 hb2 hb3
  refine ⟨_, _, _, genFull_answers hb he N b1, genFull_answers (answered_idle hb) rfl M b2,
    genFull_answers hb he (N + M) b,
    congrArg (Engine.full p) (gen_lanes_after_gen fullRule l _ _ _ hN hM hb1 hb2 hb3), fun h2 h3 x hx => ?_⟩
  exact gen_read_after_gen fullRule fullRule_emitsBlocks l _ _ _ hN hM hb1 (hb2.resolve_left h2)
    (hb3.resolve_left h3) hx

/-- Settles O33: the same on the Half Engine. -/
theorem advanceEquivalenceHalf : Obligations.AdvanceEquivalenceHalf := by
  intro s p l N M b1 b2 b hb he hN hM hb1 hb2 hb3
  refine ⟨_, _, _, genHalf_answers hb he N b1, genHalf_answers (answered_idle hb) rfl M b2,
    genHalf_answers hb he (N + M) b,
    congrArg (Engine.half p) (gen_lanes_after_gen halfRule l _ _ _ hN hM hb1 hb2 hb3), fun h2 h3 x hx => ?_⟩
  exact gen_read_after_gen halfRule halfRule_emitsBlocks l _ _ _ hN hM hb1 (hb2.resolve_left h2)
    (hb3.resolve_left h3) hx

/-- Settles O34: `SKIP` is `GEN` without a buffer, on the engine of either variant. -/
theorem nullBufferEquivalence : Obligations.NullBufferEquivalence := by
  rintro s v size blen hb rfl hroom
  cases he : s.engine with
  | full p l =>
    exact ⟨_, _, genFull_answers hb he size 0, genFull_answers hb he size blen,
      congrArg (Engine.full p) (gen_lanes_of_noBuffer fullRule l s.buffer hroom),
      gen_buffer_of_noBuffer fullRule fullRule_emitsBlocks size l s.buffer⟩
  | half p l =>
    exact ⟨_, _, genHalf_answers hb he size 0, genHalf_answers hb he size blen,
      congrArg (Engine.half p) (gen_lanes_of_noBuffer halfRule l s.buffer hroom),
      gen_buffer_of_noBuffer halfRule halfRule_emitsBlocks size l s.buffer⟩

/-- Settles O42: `INIT` leaves the lanes of the seed, and `SKIP a` is a `GEN a` before the one that stores. -/
theorem skipThenGenerateReadsTheStream : Obligations.SkipThenGenerateReadsTheStream := by
  constructor
  · intro s p l w x y z a size blen hb he ha hsize _ hroom
    refine ⟨_, _, _, initFull_answers hb he w x y z, genFull_answers (answered_idle hb) rfl a 0,
      genFull_answers (answered_idle hb) rfl size blen, fun k hk => ?_⟩
    rw [← fullRule_stream]
    exact gen_stores_stream_after_gen fullRule fullRule_emitsBlocks _ _ _ ha (.inl rfl) hsize hroom hk
  · intro s p l w x y z a size blen hb he ha hsize _ hroom
    refine ⟨_, _, _, initHalf_answers hb he w x y z, genHalf_answers (answered_idle hb) rfl a 0,
      genHalf_answers (answered_idle hb) rfl size blen, fun k hk => ?_⟩
    rw [← halfRule_stream]
    exact gen_stores_stream_after_gen halfRule halfRule_emitsBlocks _ _ _ ha (.inl rfl) hsize hroom hk

end Sys2Proof.Machine
end

section
/-! SUPPORT. The Half Engine (42_half_engine.md sections 1 and 2): the contract of its `GEN`, what that stores, and the
one step of `GEN 32, 32`, from the rules of `GEN` that hold of either engine. -/

namespace Sys2Proof.Machine

open Sys2Proof

/-- A violated precondition of `generate` fails the validation (R100, R120, R161, R162). -/
theorem validate_ne_ok_of_violated {block size blen : Nat} (h : size % block ≠ 0 ∨ (blen ≠ 0 ∧ blen < size)) :
    validate block size blen ≠ .ok := by
  rw [Ne, validate_eq_ok_iff]
  omega

/-- Settles O20: the computation of the command stores the stream, and its answer is that of `answered_gen_of_room`. -/
theorem genHalfStoresTheStream : Obligations.GenHalfStoresTheStream := by
  intro s p l size blen hb he hsize _ hroom
  refine ⟨_, genHalf_answers hb he size blen, answered_gen_of_room halfRule l _ s _ hsize hroom, fun x hx => ?_,
    fun x hx => ?_⟩
  · rw [← halfRule_stream]
    exact gen_stores_stream halfRule l s.buffer halfRule_emitsBlocks hsize hroom hx
  · exact gen_read_outside halfRule l s.buffer halfRule_emitsBlocks hx

/-- The first block of the stream is the pending output lane (R121 line 0, R43). -/
theorem halfStream_firstBlock (l : HalfLanes) {j : Nat} (hj : j < 32) : halfStream l j = Lane.byte l.o j := by
  rw [halfStream, Nat.div_eq_of_lt hj, Nat.mod_eq_of_lt hj, Function.iterate_zero_apply]

/-- Settles O18: `GEN 32, 32` stores the stream of one step, whose block is the pending output. -/
theorem halfStepLineByLine : Obligations.HalfStepLineByLine := by
  intro s p l hb he
  obtain ⟨t, hx, ht, hstored, hframe⟩ :=
    genHalfStoresTheStream s p l 32 32 hb he (by decide) (by decide) le_rfl
  refine ⟨t, hx, ht, fun j hj => ?_, hframe⟩
  rw [hstored j hj, halfStream_firstBlock l hj]

/-- Settles O22: a violated precondition gives the failed answer, and a valid `GEN` answers with or without a buffer. -/
theorem genHalfContract : Obligations.GenHalfContract := by
  intro s p l size blen hb he
  refine ⟨fun hbad => ?_, fun hsize => ?_, fun hsize _ hroom => ?_⟩
  · have hv : validate halfRule.block size blen ≠ .ok := validate_ne_ok_of_violated hbad
    refine ⟨_, hv, ?_⟩
    rw [genHalf_answers hb he, answered_gen_of_invalid halfRule he hv]
  · rw [genHalf_answers hb he, answered_gen_of_noBuffer halfRule l halfRule_emitsBlocks s _ hsize]
    rfl
  · exact ⟨_, genHalf_answers hb he size blen,
      congrArg some (gen_response_of_room halfRule l s.buffer hsize hroom)⟩

end Sys2Proof.Machine
end

section
/-! SUPPORT. The initializer (43_initializer.md): the words of the seed load (section 2), the rounds of the warm-up of
either engine and what they leave (sections 3 and 4), and that `INIT` forgets the state before it (R151). -/

namespace Sys2Proof

theorem slice_self {w : Nat} (x : BitVec w) : slice w x 0 = x := BitVec.extractLsb'_eq_self

theorem slice_append_zero {w n : Nat} (x : BitVec n) (y : BitVec w) : slice w (x ++ y) 0 = y := by
  rw [slice, Nat.mul_zero]
  exact BitVec.extractLsb'_append_eq_right

theorem slice_append_succ {w n : Nat} (x : BitVec n) (y : BitVec w) (k : Nat) :
    slice w (x ++ y) (k + 1) = slice w x k := by
  rw [slice, slice, BitVec.extractLsb'_append_eq_of_le (by rw [Nat.mul_succ]; omega), Nat.mul_succ,
    Nat.add_sub_cancel]

end Sys2Proof

namespace Sys2Proof.Machine

open Sys2Proof

/-- The words of a seeded state lane: every word has its table constant, and the two words of the placement's parity
have a seed word each besides (R142, R143). -/
theorem words_seedLane {nphi ns : Nat} (p : Params nphi ns) (seed : Fin 4 → Word) (i : Fin ns)
    {m : Placement nphi} (hm : m = p.seedMap[i]) :
    Lane.word (Params.seedLane p seed i) 0 = p.phi[m.phi0] ^^^ (if m.seeded = .even then seed m.seedLow else 0) ∧
    Lane.word (Params.seedLane p seed i) 1 = p.phi[m.phi1] ^^^ (if m.seeded = .odd then seed m.seedLow else 0) ∧
    Lane.word (Params.seedLane p seed i) 2 = p.phi[m.phi2] ^^^ (if m.seeded = .even then seed m.seedHigh else 0) ∧
    Lane.word (Params.seedLane p seed i) 3 = p.phi[m.phi3] ^^^ (if m.seeded = .odd then seed m.seedHigh else 0) := by
  have hword (k : Nat) (hk : k < 4) : Lane.word (Params.seedLane p seed i) k = Placement.word m p.phi seed k :=
    hm ▸ word_seedLane p seed i k hk
  rw [hword 0 (by decide), hword 1 (by decide), hword 2 (by decide), hword 3 (by decide)]
  cases hparity : m.seeded with
  | even => simp [Placement.word, hparity]
  | odd => simp [Placement.word, hparity]

/-- State lane `i` of the seed load of a FULL instance. -/
theorem seedLoadFull_lane (p : FullParams) (seed : Fin 4 → Word) (i : Fin 4) :
    [(seedLoadFull p seed).s0, (seedLoadFull p seed).s1, (seedLoadFull p seed).s2, (seedLoadFull p seed).s3][i.val]? =
      some (Params.seedLane p seed i) := by
  match i with
  | 0 | 1 | 2 | 3 => rfl

/-- State lane `i` of the seed load of a HALF instance. -/
theorem seedLoadHalf_lane (p : HalfParams) (seed : Fin 4 → Word) (i : Fin 2) :
    [(seedLoadHalf p seed).s0, (seedLoadHalf p seed).s1][i.val]? = some (Params.seedLane p seed i) := by
  match i with
  | 0 | 1 => rfl

/-- Settles O36: state lane `i` is the seed lane `i`, whose words are those of `words_seedLane`. -/
theorem seedLoadFullWords : Obligations.SeedLoadFullWords := by
  rintro p seed i L l m rfl hm hL
  obtain rfl : Params.seedLane p seed i = L := Option.some.inj ((seedLoadFull_lane p seed i).symm.trans hL)
  obtain ⟨h0, h1, h2, h3⟩ := words_seedLane p seed i hm
  exact ⟨h0, h1, h2, h3, rfl, rfl, rfl, rfl, rfl⟩

/-- Settles O37: the same lane by lane on a HALF instance. -/
theorem seedLoadHalfWords : Obligations.SeedLoadHalfWords := by
  rintro p seed i L l m rfl hm hL
  obtain rfl : Params.seedLane p seed i = L := Option.some.inj ((seedLoadHalf_lane p seed i).symm.trans hL)
  obtain ⟨h0, h1, h2, h3⟩ := words_seedLane p seed i hm
  exact ⟨h0, h1, h2, h3, rfl, rfl⟩

/-- A lane literal lists the words of its lane, word 0 first (R13). -/
theorem word_lit (w0 w1 w2 w3 : Word) :
    Lane.word (Lane.lit w0 w1 w2 w3) 0 = w0 ∧ Lane.word (Lane.lit w0 w1 w2 w3) 1 = w1 ∧
    Lane.word (Lane.lit w0 w1 w2 w3) 2 = w2 ∧ Lane.word (Lane.lit w0 w1 w2 w3) 3 = w3 := by
  simp only [Lane.word, Lane.lit, slice_append_zero, slice_append_succ, slice_self, and_self]

/-- The counter lane after `n` steps from zero (R26, R27). -/
theorem bumpCounter_iterate_zero (n : Nat) :
    bumpCounter^[n] 0 =
      Lane.lit (BitVec.ofNat 64 (7 * n)) (BitVec.ofNat 64 (5 * n)) (BitVec.ofNat 64 (3 * n)) (BitVec.ofNat 64 n) := by
  have hzero (k : Nat) : (Lane.word 0 k).toNat = 0 := congrArg BitVec.toNat (slice_zero 64 256 k)
  have hcounter := words_bumpCounter_iterate n 0
  simp only [hzero, Nat.zero_add, ← BitVec.toNat_ofNat] at hcounter
  obtain ⟨h0, h1, h2, h3⟩ := hcounter
  obtain ⟨l0, l1, l2, l3⟩ :=
    word_lit (BitVec.ofNat 64 (7 * n)) (BitVec.ofNat 64 (5 * n)) (BitVec.ofNat 64 (3 * n)) (BitVec.ofNat 64 n)
  refine lane_ext_words fun k hk => BitVec.eq_of_toNat_eq ?_
  match k with
  | 0 => rw [h0, l0]
  | 1 => rw [h1, l1]
  | 2 => rw [h2, l2]
  | 3 => rw [h3, l3]

/-- A round of the warm-up of a FULL instance: one step and the reassignment (R144, R145). -/
def warmUpRoundFull (l : FullLanes) : FullLanes := reassignFull (stepFull l)

/-- A round of the warm-up of a HALF instance: five steps and the reassignment (R147, R148). -/
def warmUpRoundHalf (l : HalfLanes) : HalfLanes := reassignHalf (stepHalf^[5] l)

section
variable (seed : Fin 4 → Word)

theorem initLanesFull_eq_rounds (p : FullParams) :
    initLanesFull p seed = warmUpRoundFull^[13] (seedLoadFull p seed) :=
  warmUp_eq fullRule (by decide) reassignFull 13 _ (by decide)

theorem initLanesHalf_eq_rounds (p : HalfParams) :
    initLanesHalf p seed = warmUpRoundHalf^[4] (seedLoadHalf p seed) :=
  warmUp_eq halfRule (by decide) reassignHalf 4 _ (by decide)

/-- The last round ends with the reassignment, which copies the outputs to the state lanes in reverse order (R145,
R146). -/
theorem initLanesFull_state_eq_outputs (p : FullParams) :
    (initLanesFull p seed).s0 = (initLanesFull p seed).o3 ∧
    (initLanesFull p seed).s1 = (initLanesFull p seed).o2 ∧
    (initLanesFull p seed).s2 = (initLanesFull p seed).o1 ∧
    (initLanesFull p seed).s3 = (initLanesFull p seed).o0 := by
  rw [initLanesFull_eq_rounds, Function.iterate_succ_apply', warmUpRoundFull]
  exact ⟨rfl, rfl, rfl, rfl⟩

/-- The last round ends with the reassignment, which copies the output to `S[1]` (R148, R149). -/
theorem initLanesHalf_state_eq_output (p : HalfParams) : (initLanesHalf p seed).s1 = (initLanesHalf p seed).o := by
  rw [initLanesHalf_eq_rounds, Function.iterate_succ_apply', warmUpRoundHalf]
  rfl

theorem warmUpRoundFull_counter (l : FullLanes) : (warmUpRoundFull l).c = bumpCounter l.c := rfl

theorem warmUpRoundHalf_counter (l : HalfLanes) : (warmUpRoundHalf l).c = bumpCounter^[5] l.c :=
  stepHalf_iterate_counter 5 l

/-- 13 steps from a zero counter (R146). -/
theorem initLanesFull_counter (p : FullParams) : (initLanesFull p seed).c = Lane.lit 91 65 39 13 := by
  rw [initLanesFull_eq_rounds,
    Function.Semiconj.iterate_right (f := FullLanes.c) warmUpRoundFull_counter 13 (seedLoadFull p seed)]
  exact bumpCounter_iterate_zero 13

/-- 4 · 5 steps from a zero counter (R149). -/
theorem initLanesHalf_counter (p : HalfParams) : (initLanesHalf p seed).c = Lane.lit 140 100 60 20 := by
  rw [initLanesHalf_eq_rounds,
    Function.Semiconj.iterate_right (f := HalfLanes.c) warmUpRoundHalf_counter 4 (seedLoadHalf p seed),
    ← Function.iterate_mul]
  exact bumpCounter_iterate_zero 20

end

/-- Settles O38: the answer is that of `initFull_answers`, with the lanes of the 13 rounds. -/
theorem initFullResult : Obligations.InitFullResult := by
  intro s p l a b c d hb he
  obtain ⟨h0, h1, h2, h3⟩ := initLanesFull_state_eq_outputs (seedWord a b c d) p
  exact ⟨_, initFull_answers hb he a b c d, initLanesFull_eq_rounds _ p, h0, h1, h2, h3, initLanesFull_counter _ p⟩

/-- Settles O39: the answer is that of `initHalf_answers`, with the lanes of the 4 rounds. -/
theorem initHalfResult : Obligations.InitHalfResult := by
  intro s p l a b c d hb he
  exact ⟨_, initHalf_answers hb he a b c d, initLanesHalf_eq_rounds _ p, initLanesHalf_state_eq_output _ p,
    initLanesHalf_counter _ p⟩

/-- Settles O41: the first block is the pending outputs, and the last round has copied them to the state lanes. -/
theorem firstBlockAfterInit : Obligations.FirstBlockAfterInit := by
  constructor
  · intro s p l a b c d hb he
    obtain ⟨h0, h1, h2, h3⟩ := initLanesFull_state_eq_outputs (seedWord a b c d) p
    obtain ⟨u, -, -, -, -, hx, -, -, -, -, -, hstored, -⟩ :=
      fullStepLineByLine (s.answered (.full p) ⟨.ok, initLanesFull p (seedWord a b c d), s.buffer, 0⟩) p _
        (answered_idle hb) rfl
    refine ⟨_, _, u, initFull_answers hb he a b c d, rfl, hx, ?_⟩
    rw [h0, h1, h2, h3]
    exact hstored
  · intro s p l a b c d hb he
    obtain ⟨u, hx, -, hstored, -⟩ :=
      halfStepLineByLine (s.answered (.half p) ⟨.ok, initLanesHalf p (seedWord a b c d), s.buffer, 0⟩) p _
        (answered_idle hb) rfl
    refine ⟨_, _, u, initHalf_answers hb he a b c d, rfl, hx, ?_⟩
    rw [initLanesHalf_state_eq_output]
    exact hstored

theorem engine_of_build_full {e : Engine} {p : FullParams} (h : e.build = .full p) : ∃ l, e = .full p l := by
  cases e with
  | full q l => cases h; exact ⟨l, rfl⟩
  | half q l => cases h

theorem engine_of_build_half {e : Engine} {p : HalfParams} (h : e.build = .half p) : ∃ l, e = .half p l := by
  cases e with
  | full q l => cases h
  | half q l => cases h; exact ⟨l, rfl⟩

/-- The same `GEN` from the same lanes answers alike, whatever else the two states hold (R45, R151). -/
theorem answered_gen_answersAs {L : Type} (R : StepRule L) (hR : R.EmitsBlocks) (s u : State) (E : L → Engine)
    (size blen : Nat) (l : L) (m m' : Memory) :
    State.AnswersAs (s.answered E (R.gen size blen l m)) (u.answered E (R.gen size blen l m')) := by
  obtain ⟨hstatus, hlanes, hwritten, hstored⟩ := gen_sameOutput R hR.pos hR.length size blen l m m'
  refine ⟨congrArg E hlanes, congrArg some (congrArg₂ Response.mk hstatus hwritten), ?_⟩
  rintro r x ⟨rfl⟩ hx
  exact hstored x hx

/-- Settles O40: two engines of one build have the same parameters, and `INIT` computes its lanes from those and the
seed. -/
theorem initForgetsThePreviousState : Obligations.InitForgetsThePreviousState := by
  rintro s u v a b c d hbs hbu hbuild rfl
  cases hs : s.engine with
  | full p l =>
    obtain ⟨l', hu⟩ : ∃ l', u.engine = .full p l' := engine_of_build_full (by rw [← hbuild, hs, build_full])
    refine ⟨_, _, initFull_answers hbs hs a b c d, initFull_answers hbu hu a b c d, rfl, fun size blen => ?_⟩
    obtain ⟨hengine, hresponse, hread⟩ := answered_gen_answersAs fullRule fullRule_emitsBlocks
      (s.answered (.full p) _) (u.answered (.full p) _) (.full p) size blen (initLanesFull p (seedWord a b c d))
      s.buffer u.buffer
    exact ⟨_, _, genFull_answers (answered_idle hbs) rfl size blen, genFull_answers (answered_idle hbu) rfl size blen,
      hengine, hresponse, fun r x hr => hread r x (hresponse.symm.trans hr)⟩
  | half p l =>
    obtain ⟨l', hu⟩ : ∃ l', u.engine = .half p l' := engine_of_build_half (by rw [← hbuild, hs, build_half])
    refine ⟨_, _, initHalf_answers hbs hs a b c d, initHalf_answers hbu hu a b c d, rfl, fun size blen => ?_⟩
    obtain ⟨hengine, hresponse, hread⟩ := answered_gen_answersAs halfRule halfRule_emitsBlocks
      (s.answered (.half p) _) (u.answered (.half p) _) (.half p) size blen (initLanesHalf p (seedWord a b c d))
      s.buffer u.buffer
    exact ⟨_, _, genHalf_answers (answered_idle hbs) rfl size blen, genHalf_answers (answered_idle hbu) rfl size blen,
      hengine, hresponse, fun r x hr => hread r x (hresponse.symm.trans hr)⟩

end Sys2Proof.Machine
end

section
/-! SUPPORT. The statuses of a command (60_exceptions.md sections 1 and 3, R161, R162, R164) and what every command of
the instance's own variant answers (section 4, R171): the status follows from the operands alone, and the bytes stored
lie inside the buffer. -/

namespace Sys2Proof.Machine

open Sys2Proof

/-- The size check comes first and asks nothing of the buffer (R161, R164). -/
theorem validate_eq_eSize_iff {block size blen : Nat} : validate block size blen = .eSize ↔ size % block ≠ 0 := by
  obtain ⟨hsize, hv⟩ | ⟨hsize, -, -, hv⟩ | ⟨hsize, -, hv⟩ := validate_cases block size blen <;> simp [hsize, hv]

/-- The buffer check decides for a whole number of blocks alone (R162, R164). -/
theorem validate_eq_eBuffer_iff {block size blen : Nat} :
    validate block size blen = .eBuffer ↔ size % block = 0 ∧ blen ≠ 0 ∧ blen < size := by
  obtain ⟨hsize, hv⟩ | ⟨hsize, hbuffer, hshort, hv⟩ | ⟨hsize, hroom, hv⟩ := validate_cases block size blen
  · simp [hsize, hv]
  · simp [hsize, hbuffer, hshort, hv]
  · simp [hsize, hv]
    omega

/-- The status a command is answered with: that of its validation, which an `INIT` does not have (R140, R160). -/
def Instr.status : Instr → Status
  | .initFull _ _ _ _ => .ok
  | .initHalf _ _ _ _ => .ok
  | .genFull size blen => validate 128 size blen
  | .genHalf size blen => validate 32 size blen

theorem status_eq_eSize_iff (i : Instr) :
    Instr.status i = .eSize ↔ ∃ size blen, (i = .genFull size blen ∧ size % 128 ≠ 0) ∨
      (i = .genHalf size blen ∧ size % 32 ≠ 0) := by
  cases i with
  | initFull a b c d => simp [Instr.status]
  | initHalf a b c d => simp [Instr.status]
  | genFull size blen => simp [Instr.status, validate_eq_eSize_iff]
  | genHalf size blen => simp [Instr.status, validate_eq_eSize_iff]

theorem status_eq_eBuffer_iff (i : Instr) :
    Instr.status i = .eBuffer ↔ ∃ size blen, blen ≠ 0 ∧ blen < size ∧
      ((i = .genFull size blen ∧ size % 128 = 0) ∨ (i = .genHalf size blen ∧ size % 32 = 0)) := by
  cases i with
  | initFull a b c d => simp [Instr.status]
  | initHalf a b c d => simp [Instr.status]
  | genFull size blen => simp [Instr.status, validate_eq_eBuffer_iff, -Nat.exists_ne_zero]; tauto
  | genHalf size blen => simp [Instr.status, validate_eq_eBuffer_iff, -Nat.exists_ne_zero]; tauto

theorem rsp0_eq_one_iff (r : Response) : r.rsp0 = 0x01 ↔ r.status = .eSize := by
  obtain ⟨st, n⟩ := r
  cases st <;> simp [Response.rsp0, Status.code]

theorem rsp0_eq_two_iff (r : Response) : r.rsp0 = 0x02 ↔ r.status = .eBuffer := by
  obtain ⟨st, n⟩ := r
  cases st <;> simp [Response.rsp0, Status.code]

/-- The commands of the instance's own variant, with the engine that runs them (R8, R64). -/
theorem own_command_cases {i : Instr} {e : Engine} (h : i.variant = e.variant) :
    (∃ p l, e = .full p l ∧
      ((∃ a b c d, i = .initFull a b c d) ∨ ∃ size blen, i = .genFull size blen)) ∨
    (∃ p l, e = .half p l ∧
      ((∃ a b c d, i = .initHalf a b c d) ∨ ∃ size blen, i = .genHalf size blen)) := by
  cases e with
  | full p l => cases i <;> simp [Instr.variant] at h ⊢
  | half p l => cases i <;> simp [Instr.variant] at h ⊢

theorem gen_status {L : Type} (R : StepRule L) (size blen : Nat) (l : L) (m : Memory) :
    (R.gen size blen l m).status = validate R.block size blen := by
  by_cases hv : validate R.block size blen = .ok
  · rw [gen_valid R l m hv, hv]
  · rw [gen_invalid R l m hv]

/-- The second word of the response of a failed `GEN` (R66, R163). -/
theorem gen_rsp1_of_failed {L : Type} (R : StepRule L) {size blen : Nat} (l : L) (m : Memory)
    (h : (R.gen size blen l m).status ≠ .ok) : (R.gen size blen l m).response.rsp1 = 0 :=
  congrArg (BitVec.ofNat 64) (gen_written_of_failed R l m h)

/-- The response to a command of the instance's own variant: the status of the command, and no bytes if it failed
(R66, R163, R171). -/
theorem exec_responds {i : Instr} {s : State} (hb : s.busy = false) (hv : i.variant = s.engine.variant) :
    ∃ t r, exec i s = .next t ∧ t.response = some r ∧ r.status = Instr.status i ∧
      (r.status ≠ .ok → r.rsp1 = 0) := by
  obtain ⟨p, l, he, ⟨a, b, c, d, rfl⟩ | ⟨size, blen, rfl⟩⟩ | ⟨p, l, he, ⟨a, b, c, d, rfl⟩ | ⟨size, blen, rfl⟩⟩ :=
    own_command_cases hv
  · exact ⟨_, _, initFull_answers hb he a b c d, rfl, rfl, fun _ => rfl⟩
  · exact ⟨_, _, genFull_answers hb he size blen, rfl, gen_status fullRule size blen l s.buffer,
      gen_rsp1_of_failed fullRule l s.buffer⟩
  · exact ⟨_, _, initHalf_answers hb he a b c d, rfl, rfl, fun _ => rfl⟩
  · exact ⟨_, _, genHalf_answers hb he size blen, rfl, gen_status halfRule size blen l s.buffer,
      gen_rsp1_of_failed halfRule l s.buffer⟩

/-- Settles O23: the first word of the response is the status of the command. -/
theorem sizeErrorExactly : Obligations.SizeErrorExactly := by
  intro s i hb hv
  obtain ⟨t, r, hx, hr, hstatus, hfailed⟩ := exec_responds hb hv
  refine ⟨t, r, hx, hr, ?_, fun h => hfailed ?_⟩
  · rw [rsp0_eq_one_iff, hstatus, status_eq_eSize_iff]
  · simp [(rsp0_eq_one_iff r).1 h]

/-- Settles O24: the same for the second error; when both conditions hold, the status is that of O23. -/
theorem bufferErrorExactly : Obligations.BufferErrorExactly := by
  intro s i hb hv
  obtain ⟨t, r, hx, hr, hstatus, hfailed⟩ := exec_responds hb hv
  refine ⟨t, r, hx, hr, ?_, fun h => hfailed ?_, fun size blen _ _ hbad => ?_⟩
  · rw [rsp0_eq_two_iff, hstatus, status_eq_eBuffer_iff]
  · simp [(rsp0_eq_two_iff r).1 h]
  · have hsize : r.status = .eSize := by rw [hstatus, status_eq_eSize_iff]; exact ⟨size, blen, hbad⟩
    exact ⟨(rsp0_eq_one_iff r).2 hsize, hfailed (by simp [hsize])⟩

/-- No `GEN` changes an offset that is not in its buffer (R44, R49, R171). -/
theorem gen_read_outside_buffer {L : Type} (R : StepRule L) (hR : R.EmitsBlocks) {size blen x : Nat} (l : L)
    (m : Memory) (hx : blen ≤ x) : (R.gen size blen l m).buffer.read x = m.read x := by
  by_cases hv : validate R.block size blen = .ok
  · obtain ⟨-, rfl | hroom⟩ := validate_eq_ok_iff.1 hv
    · rw [gen_buffer_of_noBuffer R hR]
    · exact gen_read_outside R l m hR (hroom.trans hx)
  · rw [gen_invalid R l m hv]

/-- Settles O25: an `INIT` keeps its buffer, and a `GEN` changes none of it from `blen` on. -/
theorem commandsNeverFail : Obligations.CommandsNeverFail := by
  intro s i hb hv
  obtain ⟨p, l, he, ⟨a, b, c, d, rfl⟩ | ⟨size, blen, rfl⟩⟩ | ⟨p, l, he, ⟨a, b, c, d, rfl⟩ | ⟨size, blen, rfl⟩⟩ :=
    own_command_cases hv
  · exact ⟨_, initFull_answers hb he a b c d, by simp, fun _ _ _ _ _ => rfl⟩
  · refine ⟨_, genFull_answers hb he size blen, ?_, by simp⟩
    rintro _ _ (h | h) x hx
    · cases h
      exact gen_read_outside_buffer fullRule fullRule_emitsBlocks l s.buffer hx
    · cases h
  · exact ⟨_, initHalf_answers hb he a b c d, by simp, fun _ _ _ _ _ => rfl⟩
  · refine ⟨_, genHalf_answers hb he size blen, ?_, by simp⟩
    rintro _ _ (h | h) x hx
    · cases h
    · cases h
      exact gen_read_outside_buffer halfRule halfRule_emitsBlocks l s.buffer hx

/-- Settles O54: the one step of `GEN 32, 32` (O18), on the lanes a reset leaves. -/
theorem genBeforeInitRuns : Obligations.GenBeforeInitRuns := by
  intro p n
  obtain ⟨t, hx, ht, hstored, -⟩ := halfStepLineByLine (State.resetOf (.half p) n) p _ rfl rfl
  exact ⟨t, _, hx, congrArg State.engine ht, congrArg State.response ht, rfl, hstored⟩

end Sys2Proof.Machine
end

section
/-! SUPPORT. The rest of 60_exceptions.md: what refuses a step (section 9, R179), and several instances (section 8,
R175), where a step of one instance neither changes another nor depends on it. -/

namespace Sys2Proof.Machine

open Sys2Proof

/-- A busy instance does not accept a command that a reset would follow either (R50, log entry 14). -/
theorem step_abandon_busy {s : State} {d : Descriptor} {b : Option Memory} {rest : List HostMove}
    (h : s.offers = .commandThenReset d b :: rest) (hb : s.busy = true) : step s = .refused .issuedWhileBusy := by
  simp [step, fetch, fetchAbandoned, h, hb]

/-- A command of the instance's own variant is refused for one reason (R171, R179). -/
theorem exec_refused {i : Instr} {s : State} {r : Refusal} (hv : i.variant = s.engine.variant)
    (h : exec i s = .refused r) : r = .issuedWhileBusy ∧ s.busy = true := by
  have ho := exec_outcome i s
  rw [h] at ho
  cases ho with
  | busy hb => exact ⟨rfl, hb⟩
  | otherVariant _ hother => exact absurd hv hother

/-- Settles O53, by the host's next move: only one that carries a descriptor can be refused, and a descriptor decodes
to a command of the instance's own variant. -/
theorem stepIsRefusedOnlyForMisuse : Obligations.StepIsRefusedOnlyForMisuse := by
  intro s r h
  cases ho : s.offers with
  | nil => rw [step_idle ho] at h; cases h
  | cons move rest =>
    cases move with
    | reset => rw [step_reset ho] at h; cases h
    | command d b =>
      cases hd : decodeWords s.engine.variant d with
      | error e =>
        rw [step_invalid ho hd] at h
        cases h
        exact .inl ⟨e, d, b, rest, rfl, hd, .inl rfl⟩
      | ok i =>
        rw [step_command ho hd] at h
        exact .inr (exec_refused (s := s.take rest b) (variant_of_decodeWords hd) h)
    | commandThenReset d b =>
      cases hb : s.busy with
      | true =>
        rw [step_abandon_busy ho hb] at h
        cases h
        exact .inr ⟨rfl, rfl⟩
      | false =>
        cases hd : decodeWords s.engine.variant d with
        | error e =>
          rw [step_abandon_invalid ho hb hd] at h
          cases h
          exact .inl ⟨e, d, b, rest, rfl, hd, .inr rfl⟩
        | ok i => rw [step_abandon ho hb hd] at h; cases h

theorem stepInstance_of_none {k : Nat} {sys : List State} (h : sys[k]? = none) : stepInstance k sys = .next sys := by
  simp only [stepInstance, h]

theorem stepInstance_of_step {k : Nat} {sys : List State} {s t : State} (h : sys[k]? = some s)
    (hstep : step s = .next t) : stepInstance k sys = .next (sys.set k t) := by
  simp only [stepInstance, h, hstep]

/-- Everything a step of instance `k` that answers can have done. -/
theorem stepInstance_cases {k : Nat} {sys sys' : List State} (h : stepInstance k sys = .next sys') :
    (sys[k]? = none ∧ sys' = sys) ∨
    ∃ s t, sys[k]? = some s ∧ step s = .next t ∧ sys' = sys.set k t := by
  cases hk : sys[k]? with
  | none =>
    rw [stepInstance_of_none hk] at h
    cases h
    exact .inl ⟨rfl, rfl⟩
  | some s =>
    cases hstep : step s with
    | next t =>
      rw [stepInstance_of_step hk hstep] at h
      cases h
      exact .inr ⟨s, t, rfl, hstep, rfl⟩
    | fault r => cases r
    | refused r => simp only [stepInstance, hk, hstep] at h; cases h

theorem stepInstance_length {k : Nat} {sys sys' : List State} (h : stepInstance k sys = .next sys') :
    sys'.length = sys.length := by
  obtain ⟨-, rfl⟩ | ⟨s, t, -, -, rfl⟩ := stepInstance_cases h
  · rfl
  · exact List.length_set

/-- No other instance is touched (R175). -/
theorem stepInstance_getElem?_of_ne {j k : Nat} {sys sys' : List State} (hjk : j ≠ k)
    (h : stepInstance k sys = .next sys') : sys'[j]? = sys[j]? := by
  obtain ⟨-, rfl⟩ | ⟨s, t, -, -, rfl⟩ := stepInstance_cases h
  · rfl
  · exact List.getElem?_set_ne hjk.symm

/-- The instance that steps ends where its own step ends (R175). -/
theorem stepInstance_getElem?_self {k : Nat} {sys sys' : List State} {s : State}
    (h : stepInstance k sys = .next sys') (hk : sys[k]? = some s) : ∃ t, step s = .next t ∧ sys'[k]? = some t := by
  obtain ⟨hnone, -⟩ | ⟨u, t, hu, hstep, rfl⟩ := stepInstance_cases h
  · rw [hnone] at hk; cases hk
  · obtain rfl : u = s := Option.some.inj (hu.symm.trans hk)
    obtain ⟨hlt, -⟩ := List.getElem?_eq_some_iff.1 hu
    exact ⟨t, hstep, List.getElem?_set_self hlt⟩

/-- A step of instance `k` does not depend on another instance `j` (R175). -/
theorem stepInstance_set_of_ne {j k : Nat} {sys sys' : List State} (t : State) (hjk : j ≠ k)
    (h : stepInstance k sys = .next sys') : stepInstance k (sys.set j t) = .next (sys'.set j t) := by
  have hsame : (sys.set j t)[k]? = sys[k]? := List.getElem?_set_ne hjk
  obtain ⟨hnone, rfl⟩ | ⟨s, u, hk, hstep, rfl⟩ := stepInstance_cases h
  · exact stepInstance_of_none (hsame.trans hnone)
  · rw [stepInstance_of_step (hsame.trans hk) hstep, List.set_comm _ _ hjk]

/-- Settles O56: each instance takes in either order the step it takes first. -/
theorem stepsOfTwoInstancesCommute : Obligations.StepsOfTwoInstancesCommute := by
  intro sys a b j k hjk hj hk
  have hb : b[j]? = sys[j]? := stepInstance_getElem?_of_ne hjk hk
  obtain ⟨hnone, rfl⟩ | ⟨s, t, hs, hstep, rfl⟩ := stepInstance_cases hj
  · exact ⟨b, hk, stepInstance_of_none (hb.trans hnone)⟩
  · exact ⟨b.set j t, stepInstance_set_of_ne t hjk hk, stepInstance_of_step (hb.trans hs) hstep⟩

/-- A run of several instances that answers has answered its first step. -/
theorem runSystem_cons {k : Nat} {rest : List Nat} {sys sys' : List State}
    (h : runSystem (k :: rest) sys = .next sys') :
    ∃ mid, stepInstance k sys = .next mid ∧ runSystem rest mid = .next sys' := by
  unfold runSystem at h
  split at h
  · next mid hmid => exact ⟨mid, hmid, h⟩
  · cases h
  · cases h

/-- One instance running alone. -/
theorem run_core_succ {s t : State} (n : Nat) (h : step s = .next t) :
    Host.Core.run core (n + 1) s = Host.Core.run core n t := by
  have hcore : core.step s = .next t := h
  simp only [Host.Core.run, hcore]

/-- Settles O55, by induction on the schedule: its first step is one of the instance's own or leaves the instance as it
is. -/
theorem instancesRunAsIfAlone : Obligations.InstancesRunAsIfAlone := by
  intro schedule
  induction schedule with
  | nil =>
    intro sys sys' h
    cases h
    exact ⟨rfl, fun i s hs => ⟨s, rfl, hs⟩⟩
  | cons k rest ih =>
    intro sys sys' h
    obtain ⟨mid, hk, hrest⟩ := runSystem_cons h
    obtain ⟨hlength, hruns⟩ := ih mid sys' hrest
    refine ⟨hlength.trans (stepInstance_length hk), fun i s hs => ?_⟩
    by_cases hik : i = k
    · subst hik
      obtain ⟨t, hstep, ht⟩ := stepInstance_getElem?_self hk hs
      rw [List.count_cons_self, run_core_succ _ hstep]
      exact hruns i t ht
    · rw [List.count_cons_of_ne (Ne.symm hik)]
      exact hruns i s ((stepInstance_getElem?_of_ne hik hk).trans hs)

end Sys2Proof.Machine
end

section
/-! SUPPORT. The statements of 70_reset_and_hazards.md: a reset between commands (section 1, R190), a reset while a command
executes (section 1, R191), and idling (section 3, R203). -/

namespace Sys2Proof.Machine

open Sys2Proof

@[simp] theorem length_freeBytes (first n : Nat) : (freeBytes first n).length = n := by simp [freeBytes]

theorem getD_freeBytes {first n j : Nat} (h : j < n) : (freeBytes first n).getD j 0 = Config.freeByte (first + j) := by
  simp [freeBytes, h]

@[simp] theorem abandonedBytes_genOf (v : Variant) (size blen : Nat) :
    abandonedBytes (Instr.genOf v size blen) = min size blen := by
  cases v <;> rfl

@[simp] theorem abandonedBytes_initOf (v : Variant) (a b c d : Word) : abandonedBytes (Instr.initOf v a b c d) = 0 := by
  cases v <;> rfl

/-- The buffer of an idle instance is written to, not dropped, by a reset that follows a command (R191). -/
theorem abandon_buffer_of_idle {s : State} (hb : s.busy = false) (i : Instr) :
    (s.abandon i).buffer = s.buffer.writeBytes 0 (freeBytes s.draws (abandonedBytes i)) := by
  simp [hb]

/-- The offsets the command could have stored at hold free bytes (R191, U8). -/
theorem read_abandon_below {s : State} (hb : s.busy = false) {i : Instr} {x : Nat} (hx : x < abandonedBytes i) :
    (s.abandon i).buffer.read x = some (Config.freeByte (s.draws + x)) := by
  have hread := read_writeBytes_inside s.buffer 0 x (freeBytes s.draws (abandonedBytes i)) (by simpa using hx)
  rwa [Nat.zero_add, getD_freeBytes hx, ← abandon_buffer_of_idle hb] at hread

/-- Every other offset is as it was (R191). -/
theorem read_abandon_above {s : State} (hb : s.busy = false) {i : Instr} {x : Nat} (hx : abandonedBytes i ≤ x) :
    (s.abandon i).buffer.read x = s.buffer.read x := by
  rw [abandon_buffer_of_idle hb]
  exact read_writeBytes_outside _ _ (.inr (by simpa using hx))

/-- A command without a buffer leaves the buffer alone (R40, R140). -/
theorem abandon_buffer_of_noBytes {s : State} (hb : s.busy = false) {i : Instr} (hi : abandonedBytes i = 0) :
    (s.abandon i).buffer = s.buffer := by
  rw [abandon_buffer_of_idle hb, hi]
  rfl

/-- Settles O48: the step abandons the `GEN`, of whose buffer `min size blen` bytes become free. -/
theorem resetDuringGen : Obligations.ResetDuringGen := by
  intro s d buffer rest size blen hb ho hd
  have hidle : (s.take rest buffer).busy = false := hb
  have hbytes := abandonedBytes_genOf s.engine.variant size blen
  refine ⟨_, step_abandon ho hb hd, rfl, rfl, rfl, ?lanes, ?below, ?above⟩
  case lanes => rw [abandon_engine, hbytes, take_engine, take_draws]
  case below => exact fun x hx => read_abandon_below hidle (hx.trans_eq hbytes.symm)
  case above => exact fun x hx => read_abandon_above hidle (hbytes.trans_le hx)

/-- Settles O57: the lanes take the free values that follow those of the abandoned bytes, and an `INIT` has none. -/
theorem resetDuringAnyCommand : Obligations.ResetDuringAnyCommand := by
  intro s d buffer rest i hb ho hd
  have hidle : (s.take rest buffer).busy = false := hb
  refine ⟨_, s.draws + abandonedBytes i, step_abandon ho hb hd, rfl, rfl, rfl, rfl, Nat.le_add_right _ _, rfl, ?init⟩
  case init =>
    rintro a b c e rfl
    exact abandon_buffer_of_noBytes hidle (abandonedBytes_initOf s.engine.variant a b c e)

/-- Settles O47: of an idle instance a reset keeps the buffer, and the move itself brings none. -/
theorem resetBetweenCommands : Obligations.ResetBetweenCommands := by
  intro s rest hb ho
  rw [step_reset ho]
  simp [State.doReset, State.take, hb]

/-- Settles O49: a step with nothing issued is `State.idle`, which replaces the response only. -/
theorem idleIsStable : Obligations.IdleIsStable :=
  ⟨fun _ ho => step_idle ho, fun s i => exec_ignores_response i s none⟩

end Sys2Proof.Machine
end
